-- ==== Sys2Proof/Word.lean ====
section
/-! DEFINITION. The word types of FRAMEGEN (00_scope.md R8): everything is unsigned, bit 0 is the least significant. -/

namespace Sys2Proof

/-- One byte: a wire byte, a buffer byte, IMM8, a checksum (R6, CS_W = 8). -/
abbrev Byte := BitVec 8

/-- One 32-bit word: the host data bus (R6, BUS_W), SEQ (SEQ_W), a command word. -/
abbrev Word := BitVec 32

/-- A byte string, first byte first (R8). -/
abbrev Bytes := List Byte

end Sys2Proof
end

