-- ==== Sys2Proof/Config.lean ====
section
/-! DEFINITION. Implementation parameters and fixed constants (00_scope.md R6, R7), and the one free value. -/

namespace Sys2Proof

/-- The parameters an implementation or its platform fixes (R6, R51, D26). They stand in State as a field no step
changes, so that every statement holds for all of their values. -/
structure Config where
  /-- CMD_MAX, the capacity of the command buffer in bytes (R6). -/
  cmdMax : Nat
  /-- BASE, the byte address of the register window (R51); OPEN in the spec. -/
  base : Nat
  /-- RESENDS_FAILED_COMMAND, a choice of the host (D26); only `Machine.afterErst` reads it. -/
  resendsFailedCommand : Bool
deriving DecidableEq, Repr

/-- The parameters of `Machine.State.reset`: CMD_MAX has the spec's default (R6).
DESIGN CHOICE (unsafe): BASE = 0 and RESENDS_FAILED_COMMAND = false, both OPEN in the spec (log 3). -/
def Config.default : Config := { cmdMax := 128, base := 0, resendsFailedCommand := false }

/-- FRAME_MAX, the length of the longest frame (R7). -/
def Config.frameMax (c : Config) : Nat := c.cmdMax + 17

/-- RS_THRESH, the resend-streak threshold, as a STREAK value (R6). -/
def rsThresh : BitVec 2 := 3

/-- The command set version the ID register reports (R3, R33). -/
def version : Byte := 1

/-- tx_data while tx_valid = 0 is unspecified (R170, I7): a FREE VALUE, one for each value of the step counter. -/
opaque Config.idleTxData : Nat → Byte

end Sys2Proof
end

