-- ==== Sys2Proof/Syntax.lean ====
section
/-! DEFINITION. What a host can do: bus accesses (20_memory.md), the registers of the window, the ten commands of
format C (30_encoding.md R72), and `Instr`, one constructor per row of spec/opcode_table.json. -/

namespace Sys2Proof

/-- The direction of a host access (R78). -/
inductive Dir
  | read
  | write
deriving DecidableEq, Repr

/-- One host bus access (R9, R53): MemRead(addr, size) or MemWrite(addr, size, data). `data` means nothing on a read. -/
structure Access where
  dir : Dir
  addr : Nat
  size : Nat
  data : Word
deriving DecidableEq, Repr

/-- The registers of the window (R52). -/
inductive Reg
  | cmd | status | seq | streak | chksum | cmdlen | framelen | txptr | ien | errcause | errcmd | id
deriving DecidableEq, Repr

/-- The offset of a register from BASE (R52). -/
def Reg.offset : Reg → Nat
  | .cmd => 0x00
  | .status => 0x04
  | .seq => 0x08
  | .streak => 0x0C
  | .chksum => 0x10
  | .cmdlen => 0x14
  | .framelen => 0x18
  | .txptr => 0x1C
  | .ien => 0x20
  | .errcause => 0x24
  | .errcmd => 0x28
  | .id => 0x2C

/-- The commands of format C (R72). PUSH carries the one operand form, IMM8 (R71). -/
inductive Command
  | nop
  | init
  | clr
  | push (b : Byte)
  | encode
  | ack
  | resend
  | erst
  | clrev
  | raw
deriving DecidableEq, Repr

/-- One constructor per row of spec/opcode_table.json: ten commands (format C) and thirteen bus accesses (format BUS). -/
inductive Instr
  | nop
  | init
  | clr
  | push (b : Byte)
  | encode
  | ack
  | resend
  | erst
  | clrev
  | raw
  | wrCmd (w : Word)
  | rdStatus
  | rdSeq
  | rdStreak
  | rdChksum
  | rdCmdlen
  | rdFramelen
  | rdTxptr
  | rdIen
  | rdErrcause
  | rdErrcmd
  | rdId
  | wrIen (v : Word)
deriving DecidableEq, Repr

/-- The instruction a command is. -/
def Command.toInstr : Command → Instr
  | .nop => .nop
  | .init => .init
  | .clr => .clr
  | .push b => .push b
  | .encode => .encode
  | .ack => .ack
  | .resend => .resend
  | .erst => .erst
  | .clrev => .clrev
  | .raw => .raw

/-- The command an instruction of format C is; none for a bus access. -/
def Instr.command? : Instr → Option Command
  | .nop => some .nop
  | .init => some .init
  | .clr => some .clr
  | .push b => some (.push b)
  | .encode => some .encode
  | .ack => some .ack
  | .resend => some .resend
  | .erst => some .erst
  | .clrev => some .clrev
  | .raw => some .raw
  | .wrCmd _ => none
  | .rdStatus => none
  | .rdSeq => none
  | .rdStreak => none
  | .rdChksum => none
  | .rdCmdlen => none
  | .rdFramelen => none
  | .rdTxptr => none
  | .rdIen => none
  | .rdErrcause => none
  | .rdErrcmd => none
  | .rdId => none
  | .wrIen _ => none

end Sys2Proof
end

