-- ==== Sys2Proof/WellFormed.lean ====
section
/-! DEFINITION. Well-formedness checks. A term of `Instr` needs none: the type of each operand has exactly the values
its field admits (R71: a byte; R160, R162: a word). What can be ill formed is a command WORD (R72), a bus ACCESS
(R53, R54) and a choice of the PARAMETERS (R6, R51). -/

namespace Sys2Proof

/-- One row of R72's (match, mask) pairs. -/
structure CommandRow where
  mnemonic : String
  pattern : Word
  mask : Word
deriving DecidableEq, Repr

/-- The opcode map as (match, mask) pairs (R72). -/
def commandRows : List CommandRow :=
  [ ⟨"NOP", 0x00000000, 0xFFFFFFFF⟩, ⟨"INIT", 0x00000001, 0xFFFFFFFF⟩, ⟨"CLR", 0x00000002, 0xFFFFFFFF⟩,
    ⟨"PUSH", 0x00000003, 0xFFFF00FF⟩, ⟨"ENCODE", 0x00000004, 0xFFFFFFFF⟩, ⟨"ACK", 0x00000005, 0xFFFFFFFF⟩,
    ⟨"RESEND", 0x00000006, 0xFFFFFFFF⟩, ⟨"ERST", 0x00000007, 0xFFFFFFFF⟩, ⟨"CLREV", 0x00000008, 0xFFFFFFFF⟩,
    ⟨"RAW", 0x00000009, 0xFFFFFFFF⟩ ]

/-- A word belongs to a row: its bits under the mask are the row's. -/
def CommandRow.admits (r : CommandRow) (w : Word) : Bool := w &&& r.mask == r.pattern

/-- A word is a legal command exactly when some row admits it (R72). -/
def legalWord (w : Word) : Bool := commandRows.any (fun r => r.admits w)

/-- CMD_MAX lies in 1 to 65518 (R6) and BASE is a multiple of 64 (R51). -/
def Config.wf (c : Config) : Bool := 1 ≤ c.cmdMax && c.cmdMax ≤ 65518 && c.base % 64 == 0

/-- The address lies in the register window (R51). -/
def Access.inWindow (base : Nat) (a : Access) : Bool := base ≤ a.addr && a.addr ≤ base + 0x3F

/-- The offsets a read is defined at: every register but CMD (R52, R54). -/
def readableOffsets : List Nat := [0x04, 0x08, 0x0C, 0x10, 0x14, 0x18, 0x1C, 0x20, 0x24, 0x28, 0x2C]

/-- The offsets a write is defined at: CMD and IEN (R52, R54). -/
def writableOffsets : List Nat := [0x00, 0x20]

/-- An access the block defines: in the window, an aligned word, and in a direction its offset allows (R51, R53, R54). -/
def Access.wf (base : Nat) (a : Access) : Bool :=
  a.inWindow base && a.size == 4 && (a.addr - base) % 4 == 0 &&
    (match a.dir with
     | .read => readableOffsets.contains (a.addr - base)
     | .write => writableOffsets.contains (a.addr - base))

end Sys2Proof
end

