-- ==== Sys2Proof/Decode.lean ====
section
/-! DEFINITION. Decoding and encoding, in the spec's two layers: a bus access decodes by direction and offset
(30_encoding.md R78; 20_memory.md R51 to R54), and a word written to CMD decodes by its fields (R70 to R74). -/

namespace Sys2Proof

/-- Field OP, bits 3:0 of a command word (R70). -/
def opField (w : Word) : BitVec 4 := w.extractLsb' 0 4

/-- Field RSV0, bits 7:4 of a command word (R70). -/
def rsv0Field (w : Word) : BitVec 4 := w.extractLsb' 4 4

/-- Field IMM8, bits 15:8 of a command word, used unchanged (R70, R71). -/
def imm8Field (w : Word) : Byte := w.extractLsb' 8 8

/-- Field RSV1, bits 31:16 of a command word (R70). -/
def rsv1Field (w : Word) : BitVec 16 := w.extractLsb' 16 16

/-- Why a word written to CMD is no command (R73). -/
inductive IllegalWord
  /-- OP is 0xA to 0xF: cause ILL_OP. -/
  | illOp
  /-- A reserved bit is set, or IMM8 is nonzero and OP is not PUSH: cause ILL_RSVD. -/
  | illRsvd
deriving DecidableEq, Repr

/-- The command of opcode `op` with operand byte `b` (R72); none for the reserved opcodes 0xA to 0xF. -/
def opcodeCommand (op : BitVec 4) (b : Byte) : Option Command :=
  match op.toNat with
  | 0 => some .nop
  | 1 => some .init
  | 2 => some .clr
  | 3 => some (.push b)
  | 4 => some .encode
  | 5 => some .ack
  | 6 => some .resend
  | 7 => some .erst
  | 8 => some .clrev
  | 9 => some .raw
  | _ => none

/-- The decode of a word written to CMD (R73): a reserved opcode goes before nonzero reserved bits. -/
def decodeCommand (w : Word) : Except IllegalWord Command :=
  match opcodeCommand (opField w) (imm8Field w) with
  | none => .error .illOp
  | some c =>
    if rsv0Field w ≠ 0 ∨ rsv1Field w ≠ 0 then .error .illRsvd
    else if opField w ≠ 3 ∧ imm8Field w ≠ 0 then .error .illRsvd
    else .ok c

/-- Why an access is not one the block defines. -/
inductive AccessError
  /-- Outside the window: it never reaches the block (R51). -/
  | outside
  /-- Not an aligned 32-bit word (R53). -/
  | notAlignedWord
  /-- A read of CMD (R54). -/
  | readOfCmd
  /-- A write to a read-only register (R54). -/
  | writeOfReadOnly
  /-- A reserved offset, 0x30 to 0x3C (R54). -/
  | reservedOffset
deriving DecidableEq, Repr

/-- The register at a word offset of the window (R52); none at the reserved offsets. -/
def regAt (offset : Nat) : Option Reg :=
  match offset / 4 with
  | 0 => some .cmd
  | 1 => some .status
  | 2 => some .seq
  | 3 => some .streak
  | 4 => some .chksum
  | 5 => some .cmdlen
  | 6 => some .framelen
  | 7 => some .txptr
  | 8 => some .ien
  | 9 => some .errcause
  | 10 => some .errcmd
  | 11 => some .id
  | _ => none

/-- The bus row that reads a register (R150 to R161); CMD cannot be read (R54). -/
def readInstr : Reg → Except AccessError Instr
  | .cmd => .error .readOfCmd
  | .status => .ok .rdStatus
  | .seq => .ok .rdSeq
  | .streak => .ok .rdStreak
  | .chksum => .ok .rdChksum
  | .cmdlen => .ok .rdCmdlen
  | .framelen => .ok .rdFramelen
  | .txptr => .ok .rdTxptr
  | .ien => .ok .rdIen
  | .errcause => .ok .rdErrcause
  | .errcmd => .ok .rdErrcmd
  | .id => .ok .rdId

/-- The bus row that writes a register (R160, R162); every register but CMD and IEN is read-only (R54). -/
def writeInstr (v : Word) : Reg → Except AccessError Instr
  | .cmd => .ok (.wrCmd v)
  | .ien => .ok (.wrIen v)
  | .status => .error .writeOfReadOnly
  | .seq => .error .writeOfReadOnly
  | .streak => .error .writeOfReadOnly
  | .chksum => .error .writeOfReadOnly
  | .cmdlen => .error .writeOfReadOnly
  | .framelen => .error .writeOfReadOnly
  | .txptr => .error .writeOfReadOnly
  | .errcause => .error .writeOfReadOnly
  | .errcmd => .error .writeOfReadOnly
  | .id => .error .writeOfReadOnly

/-- The decode of a host access with the window at `base` (R51, R53, R54, R78). The window is decided by the access's
first byte address `addr`, whatever its size (R51; DEDUCED, safe, log 17). -/
def decodeAccess (base : Nat) (a : Access) : Except AccessError Instr :=
  if a.inWindow base = false then .error .outside
  else if a.size ≠ 4 ∨ (a.addr - base) % 4 ≠ 0 then .error .notAlignedWord
  else match regAt (a.addr - base) with
    | none => .error .reservedOffset
    | some r => match a.dir with
      | .read => readInstr r
      | .write => writeInstr a.data r

/-- A word of format C from its fields, the reserved ones 0 (R70). -/
def commandWord (op : BitVec 4) (imm : Byte) : Word := 0#16 ++ imm ++ 0#4 ++ op

/-- The command word of a command (R72). -/
def encodeCommand : Command → Word
  | .nop => commandWord 0 0
  | .init => commandWord 1 0
  | .clr => commandWord 2 0
  | .push b => commandWord 3 b
  | .encode => commandWord 4 0
  | .ack => commandWord 5 0
  | .resend => commandWord 6 0
  | .erst => commandWord 7 0
  | .clrev => commandWord 8 0
  | .raw => commandWord 9 0

/-- The aligned word read of a register (R9, R53). -/
def readAccess (base : Nat) (r : Reg) : Access := { dir := .read, addr := base + r.offset, size := 4, data := 0 }

/-- The aligned word write of a register (R9, R53). -/
def writeAccess (base : Nat) (r : Reg) (v : Word) : Access :=
  { dir := .write, addr := base + r.offset, size := 4, data := v }

/-- The host access that carries an instruction (R76): a bus row is its own access, and a bare command means
`wr CMD, <word>`. -/
def encode (base : Nat) : Instr → Access
  | .nop => writeAccess base .cmd (encodeCommand .nop)
  | .init => writeAccess base .cmd (encodeCommand .init)
  | .clr => writeAccess base .cmd (encodeCommand .clr)
  | .push b => writeAccess base .cmd (encodeCommand (.push b))
  | .encode => writeAccess base .cmd (encodeCommand .encode)
  | .ack => writeAccess base .cmd (encodeCommand .ack)
  | .resend => writeAccess base .cmd (encodeCommand .resend)
  | .erst => writeAccess base .cmd (encodeCommand .erst)
  | .clrev => writeAccess base .cmd (encodeCommand .clrev)
  | .raw => writeAccess base .cmd (encodeCommand .raw)
  | .wrCmd w => writeAccess base .cmd w
  | .rdStatus => readAccess base .status
  | .rdSeq => readAccess base .seq
  | .rdStreak => readAccess base .streak
  | .rdChksum => readAccess base .chksum
  | .rdCmdlen => readAccess base .cmdlen
  | .rdFramelen => readAccess base .framelen
  | .rdTxptr => readAccess base .txptr
  | .rdIen => readAccess base .ien
  | .rdErrcause => readAccess base .errcause
  | .rdErrcmd => readAccess base .errcmd
  | .rdId => readAccess base .id
  | .wrIen v => writeAccess base .ien v

/-- Byte lane `k` of a bus word: bits 8k+7:8k, little-endian (R56). -/
def lane (w : Word) (k : Nat) : Byte := w.extractLsb' (8 * k) 8

/-- A bus word as its four lanes, lane 0 at the lowest address (R56). -/
def lanesOf (w : Word) : Bytes := [lane w 0, lane w 1, lane w 2, lane w 3]

/-- The word four lanes carry (R56); none for another number of bytes, since no access is split or merged (R53). -/
def wordOfLanes : Bytes → Option Word
  | [b0, b1, b2, b3] => some (b3 ++ b2 ++ b1 ++ b0)
  | _ => none

/-- The direction of a BUS row of the table. The table's word is the offset alone and holds no direction: CMD can only be
written, every other register can be read, and IEN's word belongs to both rd IEN and wr IEN, of which this reads
the first (DESIGN CHOICE, safe, log 12). -/
def tableDir (offset : Nat) : Dir := if offset = Reg.offset .cmd then .write else .read

/-- The host access a table word stands for: a row of format C is a write of that word to CMD, and a row of format BUS is
the access at its six offset bits, with write data 0 (R78; log 12). -/
def tableAccess (base nbits w : Nat) : Access :=
  if 32 ≤ nbits then writeAccess base .cmd (BitVec.ofNat 32 w)
  else { dir := tableDir (w % 64), addr := base + w % 64, size := 4, data := 0 }

/-- The instruction the decoder reads from a word of the opcode table: a format C word is laid out in its byte lanes and
decoded as R73 does; a BUS row's access is decoded as R78 does. -/
def decodeTableWord (nbits w : Nat) : Option Instr :=
  if 32 ≤ nbits then
    match wordOfLanes (lanesOf (BitVec.ofNat 32 w)) with
    | none => none
    | some v => match decodeCommand v with
      | .ok c => some c.toInstr
      | .error _ => none
  else match decodeAccess 0 (tableAccess 0 nbits w) with
    | .ok i => some i
    | .error _ => none

end Sys2Proof
end

