-- ==== Sys2Proof/Machine/State.lean ====
section
/-! DEFINITION. The state of FRAMEGEN (10_state.md), the events its agents bring (00_scope.md R5), the reasons a step can
stop, and the state right after reset (70_reset_and_hazards.md R231). -/

namespace Sys2Proof.Machine

/-- A byte buffer: (index, byte) pairs, indices strictly rising and no entry equal to what an unlisted index reads
as (`Memory.wf` in Ops). CMDBUF and FRAME are the block's only byte storage (R36). -/
abbrev Memory := List Host.Cell

/-- What an index of a buffer that nothing has written reads as. The spec leaves these bytes unspecified and says that
no operation observes them (R25, R27, I5, I6). DESIGN CHOICE (unsafe, log 4): 0x00. -/
def unwrittenByte : Byte := 0

/-- One event an agent brings (R5). -/
inductive Input
  /-- The host performs one bus access. -/
  | host (a : Access)
  /-- A second host performs a bus access (R213). -/
  | otherHost (a : Access)
  /-- The sink raises tx_ready for one transfer (R170). -/
  | sinkReady
  /-- The reset input goes to this level: true is its assertion (R230). -/
  | rst (level : Bool)
deriving DecidableEq, Repr

/-- Why the machine stops with a fault. -/
inductive Fault
  /-- BusError(a): raised by a host access inside the window that is not an aligned 32-bit word, or whose direction or
  offset the register map does not define (R53, R54, R163, R203). The spec asks for exactly this: "A model treats a bus
  error as a fault of the host step" (R203, I9). Safe: the block's state is unchanged, and the model says nothing of
  what the host does next. -/
  | busError (addr : Nat)
  /-- Raised by a host access while the reset input is held: "an access made then has no defined result" (R230), treatment
  "stuck" (I8). Safe: no claim about a state after it can be proved. -/
  | accessDuringReset
deriving DecidableEq, Repr

/-- Why the machine refuses a step. -/
inductive Refusal
  /-- An instruction of the table without a meaning; no arm of `exec` raises it. Safe. -/
  | notModelled (mnemonic : String)
  /-- Raised by an access of a second host: "A model admits only one host agent and refuses a second" (R213). Safe: no claim
  about a state after it can be proved. -/
  | secondHost
deriving DecidableEq, Repr

/-- The machine: the block's registers and buffers, its parameters, its reset input and its wire; then three
fields of the model's own (`rdata`, `inputs`, `tick`). -/
structure State where
  /-- CMD_MAX, BASE and RESENDS_FAILED_COMMAND (R6); no step changes them. -/
  cfg : Config
  /-- SEQ, the sequence number (R22). -/
  seq : Word
  /-- STREAK, the resend streak (R23). -/
  streak : BitVec 2
  /-- CMDBUF, the command buffer (R25). -/
  cmdbuf : Memory
  /-- CMDLEN, how many bytes the command buffer holds (R25). -/
  cmdlen : BitVec 16
  /-- CMDTRUNC, the command buffer has lost a byte (R26). -/
  cmdtrunc : Bool
  /-- FRAME, the frame buffer (R27). -/
  frame : Memory
  /-- FRAMELEN, the length of the loaded frame or raw line (R27). -/
  framelen : BitVec 16
  /-- TXPTR, the index of the next byte to send (R27). -/
  txptr : BitVec 16
  /-- TXBUSY, a transmission is in progress (R27). -/
  txbusy : Bool
  /-- FVALID, FRAME holds the frame of the current SEQ (R28). -/
  fvalid : Bool
  /-- CHKSUM, the checksum of the last ENCODE (R29). -/
  chksum : Byte
  /-- TXDONE, sticky (R30, R31). -/
  txdone : Bool
  /-- ERR_ILL, sticky (R30, R31). -/
  errIll : Bool
  /-- ERR_STATE, sticky (R30, R31). -/
  errState : Bool
  /-- SEQWRAP, sticky (R30, R31). -/
  seqwrap : Bool
  /-- IEN, the interrupt enable mask (R32). -/
  ien : Word
  /-- ERRCAUSE, the cause of the first recorded refusal (R34). -/
  errcause : BitVec 4
  /-- ERRCMD, the word of the first recorded refusal (R34). -/
  errcmd : Word
  /-- The level of the reset input (R230). -/
  rst : Bool
  /-- The wire: every byte emitted since the start of the run, oldest first (R173). -/
  wire : Bytes
  /-- The MODEL's own: the word the last completed read returned to the host (log 10). -/
  rdata : Option Word
  /-- The MODEL's own: the events still to happen, next one first (R60; log 1). -/
  inputs : List Input
  /-- The MODEL's own: a step counter that indexes the free value of tx_data (I7; log 11). -/
  tick : Nat
deriving DecidableEq, Repr

/-- The machine right after reset (R231), at the start of the run (R173). The registers, the flags and the wire are at the
spec's values. The parameters (log 3), the buffers' bytes (log 4) and the model's own fields (logs 1, 10, 11, 13) are
at the values the log names. -/
def State.reset : State :=
  { cfg := Config.default
    seq := 1
    streak := 0
    cmdbuf := []
    cmdlen := 0
    cmdtrunc := false
    frame := []
    framelen := 0
    txptr := 0
    txbusy := false
    fvalid := false
    chksum := 0
    txdone := false
    errIll := false
    errState := false
    seqwrap := false
    ien := 0
    errcause := 0
    errcmd := 0
    rst := false
    wire := []
    rdata := none
    inputs := []
    tick := 0 }

end Sys2Proof.Machine
end

