-- ==== Sys2Proof/Machine/Ops.lean ====
section
/-! DEFINITION. The named operations the meanings share: the byte buffers, refusing a command (the block's only exception,
60_exceptions.md R200 to R202), starting a transmission, clearing events, and the reset values. -/

namespace Sys2Proof.Machine

/-- Byte `i` of a buffer (R9). -/
def Memory.read : Memory → Nat → Byte
  | [], _ => unwrittenByte
  | (j, c) :: m, i => if i = j then c else Memory.read m i

/-- Write byte `i` of a buffer (R9), keeping the canonical form. -/
def Memory.write : Memory → Nat → Byte → Memory
  | [], i, b => if b = unwrittenByte then [] else [(i, b)]
  | (j, c) :: m, i, b =>
    if i < j then (if b = unwrittenByte then (j, c) :: m else (i, b) :: (j, c) :: m)
    else if i = j then (if b = unwrittenByte then m else (i, b) :: m)
    else (j, c) :: Memory.write m i b

/-- Every index of the buffer lies above `lo` and the indices rise strictly; no entry holds the byte of an unlisted index. -/
def Memory.wfAbove : Option Nat → Memory → Bool
  | _, [] => true
  | lo, (j, c) :: m => (match lo with | none => true | some l => l < j) && c != unwrittenByte && Memory.wfAbove (some j) m

/-- The canonical form of a buffer: equal contents are equal data. -/
def Memory.wf (m : Memory) : Bool := Memory.wfAbove none m

/-- Every listed index is below `n`. -/
def Memory.within (m : Memory) (n : Nat) : Bool := m.all (fun c => c.1 < n)

/-- The byte string at indices `i` to `i+n-1` (R8: s[i..j)). -/
def Memory.readBytes (m : Memory) (i : Nat) : Nat → Bytes
  | 0 => []
  | n + 1 => Memory.read m i :: Memory.readBytes m (i + 1) n

/-- Write a byte string from index `i` up (R107, R108: FRAME[0..|F|) <- F). -/
def Memory.writeBytes (m : Memory) (i : Nat) : Bytes → Memory
  | [] => m
  | b :: bs => Memory.writeBytes (Memory.write m i b) (i + 1) bs

/-- The causes of a refusal (R201), in their priority order (R202). -/
inductive Cause
  | illOp
  | illRsvd
  | busy
  | rstPend
  | noFrame
  | trunc
deriving DecidableEq, Repr

/-- The cause code ERRCAUSE holds (R201). -/
def Cause.code : Cause → BitVec 4
  | .illOp => 1
  | .illRsvd => 2
  | .busy => 3
  | .rstPend => 4
  | .noFrame => 5
  | .trunc => 6

/-- A cause of decode, whose STATUS bit is ERR_ILL; the others set ERR_STATE (R200, R201). -/
def Cause.isIllegal : Cause → Bool
  | .illOp => true
  | .illRsvd => true
  | .busy => false
  | .rstPend => false
  | .noFrame => false
  | .trunc => false

/-- The cause of an illegal word (R73). -/
def illegalCause : IllegalWord → Cause
  | .illOp => .illOp
  | .illRsvd => .illRsvd

/-- `raise Refused(code)` during the command word `w` (R200): the STATUS bit of the cause, and, if no refusal is
recorded yet, the cause and the word. Nothing else changes. -/
def refuse (code : Cause) (w : Word) (s : State) : State :=
  { s with
    errIll := s.errIll || code.isIllegal
    errState := s.errState || !code.isIllegal
    errcause := if s.errcause = 0 then code.code else s.errcause
    errcmd := if s.errcause = 0 then w else s.errcmd }

/-- The first cause whose condition holds, in the order the command lists its checks (R202). -/
def firstCause : List (Bool × Cause) → Option Cause
  | [] => none
  | (true, c) :: _ => some c
  | (false, _) :: rest => firstCause rest

/-- A command with its checks: refused with the first cause that applies (R200, R202), else its effect.
`w` is the command's one word (R72; DEDUCED, safe, log 15). -/
def guarded (checks : List (Bool × Cause)) (w : Word) (effect s : State) : Host.Outcome State Fault Refusal :=
  match firstCause checks with
  | some c => .next (refuse c w s)
  | none => .next effect

/-- Load a byte string into FRAME and FRAMELEN and start its transmission from byte 0 (R107, R108). In reachable
states the length fits FRAMELEN (R7; DESIGN CHOICE otherwise, safe, log 18). -/
def transmit (f : Bytes) (s : State) : State :=
  { s with
    frame := Memory.writeBytes s.frame 0 f, framelen := BitVec.ofNat 16 f.length
    txptr := 0, txbusy := true, txdone := false }

/-- Start the transmission of the loaded FRAME again from byte 0 (R121). -/
def replay (s : State) : State := { s with txptr := 0, txbusy := true, txdone := false }

/-- Clear the recorded events (R142). -/
def clearEvents (s : State) : State :=
  { s with txdone := false, errIll := false, errState := false, seqwrap := false, errcause := 0, errcmd := 0 }

/-- Every state element of the block at its reset value (R231), IEN included. Kept: what is no element of the block (the
parameters, the level of rst, the model's own fields) and the wire, from which no byte is removed (R173). The buffers'
bytes become unobservable (R141, R231); they go back to the model's reset value (DESIGN CHOICE, unsafe, logs 4 and 16). -/
def resetBlock (s : State) : State :=
  { s with
    seq := 1, streak := 0
    cmdbuf := [], cmdlen := 0, cmdtrunc := false
    frame := [], framelen := 0, txptr := 0, txbusy := false, fvalid := false, chksum := 0
    txdone := false, errIll := false, errState := false, seqwrap := false
    ien := 0, errcause := 0, errcmd := 0 }

/-- A read access completes with the word `v` and changes nothing of the block (R55). -/
def returnWord (v : Word) (s : State) : Host.Outcome State Fault Refusal := .next { s with rdata := some v }

end Sys2Proof.Machine
end

