-- ==== Sys2Proof/Machine/Control.lean ====
section
/-! DEFINITION. NOP, INIT and CLREV (42_control.md R140 to R142). -/

namespace Sys2Proof.Machine

/-- NOP (R140). -/
def execNop (s : State) : Host.Outcome State Fault Refusal := .next s

/-- INIT (R141, R233): every state element but IEN at its reset value; a transmission stops at once. -/
def execInit (s : State) : Host.Outcome State Fault Refusal := .next { resetBlock s with ien := s.ien }

/-- CLREV (R142). -/
def execClrev (s : State) : Host.Outcome State Fault Refusal := .next (clearEvents s)

end Sys2Proof.Machine
end

