-- ==== Sys2Proof/Machine/Operands.lean ====
section
/-! DEFINITION. What the meanings read as operands: the command bytes of ENCODE and RAW, the loaded frame, the writable
part of IEN's write data, and the ID word. The one operand field of a command, IMM8, is read in Decode (R71). -/

namespace Sys2Proof.Machine

/-- The effective command, CMDBUF[0..CMDLEN) (R25). -/
def commandBytes (s : State) : Bytes := Memory.readBytes s.cmdbuf 0 s.cmdlen.toNat

/-- The last frame or raw line loaded, FRAME[0..FRAMELEN) (R27). -/
def loadedFrame (s : State) : Bytes := Memory.readBytes s.frame 0 s.framelen.toNat

/-- The bytes of the transmission still to be sent, FRAME[TXPTR..FRAMELEN) (R27). -/
def pendingBytes (s : State) : Bytes := Memory.readBytes s.frame s.txptr.toNat (s.framelen.toNat - s.txptr.toNat)

/-- The writable bits of IEN: 2, 4, 5, 6 and 7 (R32). -/
def ienMask : Word := 0x000000F4

/-- The value a write of `v` gives IEN (R32, R162). -/
def ienOperand (v : Word) : Word := v &&& ienMask

/-- The ID register: VERSION, THRESH and CMDMAX (R33, R161). -/
def idWord (c : Config) : Word := version ++ (rsThresh.setWidth 8 : Byte) ++ BitVec.ofNat 16 c.cmdMax

end Sys2Proof.Machine
end

