-- ==== Sys2Proof/Machine/Flags.lean ====
section
/-! DEFINITION. The computed flags: RSTREQ (10_state.md R24), irq (R35) and the STATUS word (R30, R150). -/

namespace Sys2Proof.Machine

/-- RSTREQ = (STREAK == 3) (R24). -/
def rstreq (s : State) : Bool := s.streak == rsThresh

/-- A flag at its bit of a word. -/
def flagBit (b : Bool) (k : Nat) : Word := (BitVec.ofBool b).setWidth 32 <<< k

/-- STATUS bits 7:0, every bit but IRQ (R30). -/
def statusLow (s : State) : Word :=
  flagBit s.seqwrap 7 ||| flagBit s.errState 6 ||| flagBit s.errIll 5 ||| flagBit s.txdone 4 |||
    flagBit s.cmdtrunc 3 ||| flagBit (rstreq s) 2 ||| flagBit s.fvalid 1 ||| flagBit s.txbusy 0

/-- The irq output, level-sensitive (R35, R207). The mask leaves STATUS bit 8, irq itself, out. -/
def irq (s : State) : Bool := (statusLow s &&& s.ien) &&& ienMask != 0

/-- The STATUS register (R30, R150). -/
def statusWord (s : State) : Word := flagBit (irq s) 8 ||| statusLow s

end Sys2Proof.Machine
end

