-- ==== Sys2Proof/Machine/FrameFormat.lean ====
section
/-! DEFINITION. The pure functions of the frame encoder (40_frame_encoder.md R100 to R103). -/

namespace Sys2Proof.Machine

/-- `N`, the frame lead-in (R10). -/
def charN : Byte := 0x4E
/-- The space after the sequence number (R10). -/
def charSpace : Byte := 0x20
/-- `*`, the checksum introducer (R10). -/
def charStar : Byte := 0x2A
/-- LF, the frame terminator (R10). -/
def charLF : Byte := 0x0A

/-- The XOR-checksum of a byte string (R100). -/
def xorfold (s : Bytes) : Byte := s.foldl (fun c b => c ^^^ b) 0

/-- The ASCII digit of the last decimal place of `n` (R101). -/
def digit (n : Nat) : Byte := BitVec.ofNat 8 (0x30 + n % 10)

/-- The loop of R101: while n > 0, put the last digit in front. `fuel` bounds the number of digits. -/
def decLoop : Nat → Nat → Bytes → Bytes
  | 0, _, s => s
  | fuel + 1, n, s => if n = 0 then s else decLoop fuel (n / 10) (digit n :: s)

/-- The decimal rendering of a 32-bit value, most significant digit first and no leading zero (R101). Its domain, 0 to
4294967295, has at most ten digits, so ten turns of the loop are enough. -/
def dec (n : Word) : Bytes := if n = 0 then [0x30] else decLoop 10 n.toNat []

/-- The part of a frame the checksum covers (R102). -/
def payload (seq : Word) (c : Bytes) : Bytes := [charN] ++ dec seq ++ [charSpace] ++ c

/-- The complete wire frame (R103). -/
def frameBytes (seq : Word) (c : Bytes) : Bytes :=
  payload seq c ++ [charStar] ++ dec ((xorfold (payload seq c)).setWidth 32) ++ [charLF]

/-- The unframed line RAW sends (R108). -/
def rawLine (c : Bytes) : Bytes := c ++ [charLF]

end Sys2Proof.Machine
end

