-- ==== Sys2Proof/Machine/FrameEncoder.lean ====
section
/-! DEFINITION. CLR, PUSH, ENCODE and RAW (40_frame_encoder.md R105 to R108). -/

namespace Sys2Proof.Machine

/-- CLR (R105). The bytes of CMDBUF remain. -/
def execClr (s : State) : Host.Outcome State Fault Refusal := .next { s with cmdlen := 0, cmdtrunc := false }

/-- PUSH b (R106): append a byte, or drop it and set CMDTRUNC when the buffer is full; never a refusal. -/
def execPush (b : Byte) (s : State) : Host.Outcome State Fault Refusal :=
  if s.cmdlen.toNat < s.cfg.cmdMax then
    .next { s with cmdbuf := Memory.write s.cmdbuf s.cmdlen.toNat b, cmdlen := s.cmdlen + 1 }
  else .next { s with cmdtrunc := true }

/-- The checks of ENCODE: BUSY, RSTPEND, TRUNC (R107). -/
def encodeChecks (s : State) : List (Bool × Cause) := [(s.txbusy, .busy), (rstreq s, .rstPend), (s.cmdtrunc, .trunc)]

/-- The effect of ENCODE (R107): the frame of SEQ and the command bytes, its checksum, and the start of its transmission. -/
def encodeEffect (s : State) : State :=
  { transmit (frameBytes s.seq (commandBytes s)) s with
    chksum := xorfold (payload s.seq (commandBytes s)), fvalid := true }

/-- ENCODE (R107). -/
def execEncode (s : State) : Host.Outcome State Fault Refusal :=
  guarded (encodeChecks s) (encodeCommand .encode) (encodeEffect s) s

/-- The checks of RAW: BUSY, TRUNC, and none for STREAK = 3 (R108). -/
def rawChecks (s : State) : List (Bool × Cause) := [(s.txbusy, .busy), (s.cmdtrunc, .trunc)]

/-- The effect of RAW (R108): the command bytes and LF, unframed; the held frame is gone. -/
def rawEffect (s : State) : State :=
  { transmit (rawLine (commandBytes s)) s with fvalid := false }

/-- RAW (R108). -/
def execRaw (s : State) : Host.Outcome State Fault Refusal :=
  guarded (rawChecks s) (encodeCommand .raw) (rawEffect s) s

end Sys2Proof.Machine
end

