-- ==== Sys2Proof/Machine/SequenceResend.lean ====
section
/-! DEFINITION. ACK, RESEND and ERST (41_sequence_resend.md R120 to R122). -/

namespace Sys2Proof.Machine

/-- The checks of ACK and of RESEND: BUSY, RSTPEND, NOFRAME (R120, R121). -/
def verdictChecks (s : State) : List (Bool × Cause) := [(s.txbusy, .busy), (rstreq s, .rstPend), (!s.fvalid, .noFrame)]

/-- The effect of ACK (R120): SEQ moves on modulo 2^32 and the frame is no longer held. -/
def ackEffect (s : State) : State :=
  { s with seqwrap := s.seqwrap || s.seq == 0xFFFFFFFF, seq := s.seq + 1, streak := 0, fvalid := false }

/-- ACK (R120). -/
def execAck (s : State) : Host.Outcome State Fault Refusal :=
  guarded (verdictChecks s) (encodeCommand .ack) (ackEffect s) s

/-- The effect of RESEND (R121): count, and while the new STREAK is below the threshold send FRAME again from byte 0. -/
def resendEffect (s : State) : State :=
  if s.streak + 1 < rsThresh then replay { s with streak := s.streak + 1 } else { s with streak := s.streak + 1 }

/-- RESEND (R121). -/
def execResend (s : State) : Host.Outcome State Fault Refusal :=
  guarded (verdictChecks s) (encodeCommand .resend) (resendEffect s) s

/-- The effect of ERST (R122): renumber from 1; the command buffer, FRAME and every sticky bit stay. -/
def erstEffect (s : State) : State := { s with seq := 1, streak := 0, fvalid := false }

/-- ERST (R122): refused for BUSY only. -/
def execErst (s : State) : Host.Outcome State Fault Refusal :=
  guarded [(s.txbusy, .busy)] (encodeCommand .erst) (erstEffect s) s

end Sys2Proof.Machine
end

