-- ==== Sys2Proof/Machine/BusAccess.lean ====
section
/-! DEFINITION. The host's register accesses (43_bus_access.md R150 to R162). -/

namespace Sys2Proof.Machine

/-- rd STATUS (R150). -/
def execRdStatus (s : State) : Host.Outcome State Fault Refusal := returnWord (statusWord s) s

/-- rd SEQ (R151). -/
def execRdSeq (s : State) : Host.Outcome State Fault Refusal := returnWord s.seq s

/-- rd STREAK (R152). -/
def execRdStreak (s : State) : Host.Outcome State Fault Refusal := returnWord (s.streak.setWidth 32) s

/-- rd CHKSUM (R153). -/
def execRdChksum (s : State) : Host.Outcome State Fault Refusal := returnWord (s.chksum.setWidth 32) s

/-- rd CMDLEN (R154). -/
def execRdCmdlen (s : State) : Host.Outcome State Fault Refusal := returnWord (s.cmdlen.setWidth 32) s

/-- rd FRAMELEN (R155). -/
def execRdFramelen (s : State) : Host.Outcome State Fault Refusal := returnWord (s.framelen.setWidth 32) s

/-- rd TXPTR (R156). -/
def execRdTxptr (s : State) : Host.Outcome State Fault Refusal := returnWord (s.txptr.setWidth 32) s

/-- rd IEN (R157). -/
def execRdIen (s : State) : Host.Outcome State Fault Refusal := returnWord s.ien s

/-- rd ERRCAUSE (R158). -/
def execRdErrcause (s : State) : Host.Outcome State Fault Refusal := returnWord (s.errcause.setWidth 32) s

/-- rd ERRCMD (R159). -/
def execRdErrcmd (s : State) : Host.Outcome State Fault Refusal := returnWord s.errcmd s

/-- rd ID (R161). -/
def execRdId (s : State) : Host.Outcome State Fault Refusal := returnWord (idWord s.cfg) s

/-- Run the rule of a decoded command (R73, R160). -/
def runCommand : Command → State → Host.Outcome State Fault Refusal
  | .nop, s => execNop s
  | .init, s => execInit s
  | .clr, s => execClr s
  | .push b, s => execPush b s
  | .encode, s => execEncode s
  | .ack, s => execAck s
  | .resend, s => execResend s
  | .erst, s => execErst s
  | .clrev, s => execClrev s
  | .raw, s => execRaw s

/-- wr CMD, w (R160): decode the word and run its command; an illegal word is refused. The access itself completes. -/
def execWrCmd (w : Word) (s : State) : Host.Outcome State Fault Refusal :=
  match decodeCommand w with
  | .error e => .next (refuse (illegalCause e) w s)
  | .ok c => runCommand c s

/-- wr IEN, v (R162). -/
def execWrIen (v : Word) (s : State) : Host.Outcome State Fault Refusal := .next { s with ien := ienOperand v }

end Sys2Proof.Machine
end

