-- ==== Sys2Proof/Machine/Dispatch.lean ====
section
/-! DEFINITION. The meaning of every instruction, one arm per constructor. -/

namespace Sys2Proof.Machine

def exec (i : Instr) (s : State) : Host.Outcome State Fault Refusal :=
  match i with
  | .nop => Sys2Proof.Machine.execNop s
  | .init => Sys2Proof.Machine.execInit s
  | .clr => Sys2Proof.Machine.execClr s
  | .push b => Sys2Proof.Machine.execPush b s
  | .encode => Sys2Proof.Machine.execEncode s
  | .ack => Sys2Proof.Machine.execAck s
  | .resend => Sys2Proof.Machine.execResend s
  | .erst => Sys2Proof.Machine.execErst s
  | .clrev => Sys2Proof.Machine.execClrev s
  | .raw => Sys2Proof.Machine.execRaw s
  | .wrCmd w => Sys2Proof.Machine.execWrCmd w s
  | .rdStatus => Sys2Proof.Machine.execRdStatus s
  | .rdSeq => Sys2Proof.Machine.execRdSeq s
  | .rdStreak => Sys2Proof.Machine.execRdStreak s
  | .rdChksum => Sys2Proof.Machine.execRdChksum s
  | .rdCmdlen => Sys2Proof.Machine.execRdCmdlen s
  | .rdFramelen => Sys2Proof.Machine.execRdFramelen s
  | .rdTxptr => Sys2Proof.Machine.execRdTxptr s
  | .rdIen => Sys2Proof.Machine.execRdIen s
  | .rdErrcause => Sys2Proof.Machine.execRdErrcause s
  | .rdErrcmd => Sys2Proof.Machine.execRdErrcmd s
  | .rdId => Sys2Proof.Machine.execRdId s
  | .wrIen v => Sys2Proof.Machine.execWrIen v s

end Sys2Proof.Machine
end

