-- ==== Sys2Proof/Machine/TxPort.lean ====
section
/-! DEFINITION. The transmit byte port and the sink's transfer (44_tx_port.md R170 to R173). -/

namespace Sys2Proof.Machine

/-- tx_valid (R170). -/
def txValid (s : State) : Bool := s.txbusy

/-- tx_data (R170): FRAME[TXPTR] while tx_valid, and a free value while not (I7, log 11). -/
def txData (s : State) : Byte :=
  if s.txbusy then Memory.read s.frame s.txptr.toNat else Config.idleTxData s.tick

/-- emit(b): a byte goes to the wire (R9, R173). -/
def emit (b : Byte) (s : State) : State := { s with wire := s.wire ++ [b] }

/-- The body of one transfer (R171), for TXBUSY = 1. -/
def txTransfer (s : State) : State :=
  if s.txptr + 1 = s.framelen then
    { emit (Memory.read s.frame s.txptr.toNat) s with txptr := s.txptr + 1, txbusy := false, txdone := true }
  else { emit (Memory.read s.frame s.txptr.toNat) s with txptr := s.txptr + 1 }

/-- The sink raises tx_ready: a transfer happens when tx_valid is 1, and nothing happens when it is 0 (R170, R171; log 9). -/
def sinkReady (s : State) : State := if txValid s then txTransfer s else s

end Sys2Proof.Machine
end

