-- ==== Sys2Proof/Machine/Agents.lean ====
section
/-! DEFINITION. The steps of the three agents (00_scope.md R5): a host access, an offer of the sink, and the reset input. -/

namespace Sys2Proof.Machine

/-- One access of the host. While rst is held the host has no step (R230, I8). An access outside the window never
reaches the block (R51; log 8); one the block does not define is a bus error (R53, R54, R203); any other is its instruction. -/
def hostAccess (a : Access) (s : State) : Host.Outcome State Fault Refusal :=
  if s.rst then .fault .accessDuringReset
  else match decodeAccess s.cfg.base a with
    | .ok i => exec i s
    | .error .outside => .next s
    | .error .notAlignedWord => .fault (.busError a.addr)
    | .error .readOfCmd => .fault (.busError a.addr)
    | .error .writeOfReadOnly => .fault (.busError a.addr)
    | .error .reservedOffset => .fault (.busError a.addr)

/-- The assertion of rst: one atomic step that forces the reset state and holds it (R230). -/
def assertReset (s : State) : State := { resetBlock s with rst := true }

/-- The release of rst: the host has its steps again (R230; DEDUCED, safe, log 13). -/
def releaseReset (s : State) : State := { s with rst := false }

/-- The step of the agent an event belongs to (R5). -/
def agentStep (e : Input) (s : State) : Host.Outcome State Fault Refusal :=
  match e with
  | .host a => hostAccess a s
  | .otherHost _ => .refused .secondHost
  | .sinkReady => .next (sinkReady s)
  | .rst true => .next (assertReset s)
  | .rst false => .next (releaseReset s)

/-- The schedule moves on: the event at its head is consumed and the step counted (log 1, log 11). -/
def advance (s : State) : State := { s with inputs := s.inputs.tail, tick := s.tick + 1 }

end Sys2Proof.Machine
end

