-- ==== Sys2Proof/Machine/Step.lean ====
section
/-! DEFINITION. The step of the machine: the next event of the schedule happens (20_memory.md R60), or the block waits
(70_reset_and_hazards.md R232). -/

namespace Sys2Proof.Machine

/-- One atomic step (R58, R60). With no event to come the block waits and nothing of it changes (log 2). -/
def step (s : State) : Host.Outcome State Fault Refusal :=
  match s.inputs with
  | [] => .next (advance s)
  | e :: _ => agentStep e (advance s)

/-- `s` with a table word's access as the next event and rst low, so that the very next step runs it (log 1, log 12). -/
def State.withFetchWord (s : State) (nbits w : Nat) : State :=
  { s with inputs := .host (tableAccess s.cfg.base nbits w) :: s.inputs, rst := false }

end Sys2Proof.Machine
end

