-- ==== Sys2Proof/Machine/HostProgram.lean ====
section
/-! DEFINITION. The pseudo-instructions of a host program and their expansions (30_encoding.md R76, R77), as events of the
schedule. WAITTX is a loop of the host over rd STATUS and has no fixed expansion; `waitTxOver` is the test it ends on. -/

namespace Sys2Proof.Machine

/-- PUSHS s: one PUSH per byte, in order (R77). -/
def pushs (s : Bytes) : List Command := s.map Command.push

/-- SEND s: CLR, PUSHS s, ENCODE (R77). -/
def send (s : Bytes) : List Command := .clr :: (pushs s ++ [.encode])

/-- LINE s: CLR, PUSHS s, RAW (R77). -/
def line (s : Bytes) : List Command := .clr :: (pushs s ++ [.raw])

/-- A bare command means `wr CMD, <word>` (R76): the host's accesses for a list of commands. -/
def commandEvents (base : Nat) (cs : List Command) : List Input :=
  cs.map (fun c => .host (encode base c.toInstr))

/-- `n` offers of the sink; `tx*` (R76) is enough of them to drain the transmitter. -/
def txEvents (n : Nat) : List Input := List.replicate n .sinkReady

/-- WAITTX is over when STATUS bit 0 reads 0 (R77). -/
def waitTxOver (status : Word) : Bool := !status.getLsbD 0

/-- After ERST the host either sends the failed command again or goes on to the next one: OPEN, the parameter
RESENDS_FAILED_COMMAND of the host (R122, R241, D26). No rule of the block depends on it. -/
def afterErst (c : Config) (failed next : Bytes) : List Command :=
  if c.resendsFailedCommand then send failed else send next

end Sys2Proof.Machine
end

