-- ==== Sys2Proof/Safety.lean ====
section
/-! DEFINITION. What the claims are stated in: the invariants of 10_state.md R38 and what accompanies them, runs of
events, and the events that reset or renumber the block. -/

namespace Sys2Proof.Machine

/-- FRAME, FRAMELEN and CHKSUM are those of an ENCODE of some command bytes at SEQ (R38 item 4). -/
def holdsFrameOfSeq (s : State) : Prop :=
  ∃ c : Bytes, c.length ≤ s.cfg.cmdMax ∧ s.framelen.toNat = (frameBytes s.seq c).length ∧
    loadedFrame s = frameBytes s.seq c ∧ s.chksum = xorfold (payload s.seq c)

/-- The invariant of the machine: the parameters are in range (R6, R51), the items of R38, and what R26, R27, R31,
R32, R34 and I15 say of the other fields. -/
structure BlockInv (s : State) : Prop where
  /-- The parameters are in range (R6, R51). -/
  params : s.cfg.wf = true
  /-- CMDLEN <= CMD_MAX (R38 item 2). -/
  cmdlen_le : s.cmdlen.toNat ≤ s.cfg.cmdMax
  /-- A byte was dropped only from a full buffer (R26). -/
  trunc_full : s.cmdtrunc = true → s.cmdlen.toNat = s.cfg.cmdMax
  /-- TXBUSY = 0 implies TXPTR = FRAMELEN (R38 item 3). -/
  idle_ptr : s.txbusy = false → s.txptr = s.framelen
  /-- TXBUSY = 1 implies TXPTR < FRAMELEN (R38 item 3). -/
  busy_ptr : s.txbusy = true → s.txptr < s.framelen
  /-- FRAMELEN <= FRAME_MAX (R7, R27). -/
  framelen_le : s.framelen.toNat ≤ s.cfg.frameMax
  /-- FVALID = 1 implies that FRAME is the frame of SEQ (R38 item 4). -/
  held : s.fvalid = true → holdsFrameOfSeq s
  /-- TXDONE clears when a transmission starts and is set when it ends (R31). -/
  done_idle : s.txdone = true → s.txbusy = false
  /-- IEN's other bits are 0 (R32). -/
  ien_bits : s.ien &&& ienMask = s.ien
  /-- ERRCAUSE ranges over 0 to 6 (I15). -/
  cause_le : s.errcause ≤ 6
  /-- No cause recorded, no word recorded (R34). -/
  cause_word : s.errcause = 0 → s.errcmd = 0
  /-- A cause is recorded exactly while ERR_ILL or ERR_STATE is set (R30, R34, R200). -/
  cause_bits : s.errcause ≠ 0 ↔ (s.errIll = true ∨ s.errState = true)
  /-- While rst is held nothing is being sent (R230). -/
  rst_idle : s.rst = true → s.txbusy = false
  /-- CMDBUF is in canonical form and within CMD_MAX bytes (R25). -/
  cmdbuf_ok : Memory.wf s.cmdbuf = true ∧ Memory.within s.cmdbuf s.cfg.cmdMax = true
  /-- FRAME is in canonical form and within FRAME_MAX bytes (R27). -/
  frame_ok : Memory.wf s.frame = true ∧ Memory.within s.frame s.cfg.frameMax = true

/-- `k` steps of the machine, stopping at the first fault or refusal. -/
def run : Nat → State → Host.Outcome State Fault Refusal
  | 0, s => .next s
  | k + 1, s =>
    match step s with
    | .next t => run k t
    | .fault r => .fault r
    | .refused r => .refused r

/-- The number a string of ASCII digits renders, most significant digit first. -/
def digitsValue (s : Bytes) : Nat := s.foldl (fun acc b => 10 * acc + (b.toNat - 0x30)) 0

/-- The next event of the schedule is a host write of the command `c` to CMD (R76, R160). -/
def nextIsCommand (s : State) (c : Command) : Prop := s.inputs.head? = some (.host (encode s.cfg.base c.toInstr))

/-- The next event of the schedule is an assertion of rst (R230). -/
def nextIsReset (s : State) : Prop := s.inputs.head? = some (.rst true)

/-- An event that can move SEQ other than by ACK: ERST, INIT, or a reset (R22). -/
def Input.renumbers (base : Nat) (e : Input) : Bool :=
  e == .host (encode base .erst) || e == .host (encode base .init) || e == .rst true

/-- The next step is an ACK that is accepted (R120). -/
def acceptsAck (s : State) : Bool :=
  s.inputs.head? == some (.host (encode s.cfg.base .ack)) && !s.rst && !s.txbusy && !rstreq s && s.fvalid

/-- How many of the next `k` steps are accepted ACKs. -/
def ackCount : Nat → State → Nat
  | 0, _ => 0
  | k + 1, s =>
    (if acceptsAck s then 1 else 0) + (match step s with | .next t => ackCount k t | .fault _ => 0 | .refused _ => 0)

end Sys2Proof.Machine
end

