-- ==== Sys2Proof/Certificates/Slice0/Obligations.lean ====
section
/-! DEFINITION. The statements for the provers, from the numbered rules of spec/. A frame is written as an equation: the
next state, with the named fields put back, is the state before; every field it does not name is unchanged. -/

open Sys2Proof Sys2Proof.Machine

/-! ## Encoding -/

/-- R70 to R72, R76, R78: the access that carries an instruction decodes back to it, and a command's word to its command; and
what decodes is nothing but an encoding: every legal word is the word of its command, and every access that decodes is the
access of its instruction (the data of a read means nothing). -/
def Obligations.DecodeAndEncodeAgree : Prop :=
  (∀ (base : Nat) (i : Instr),
    match i.command? with
    | some c => c.toInstr = i ∧ decodeCommand (encodeCommand c) = .ok c ∧
        decodeAccess base (encode base i) = .ok (.wrCmd (encodeCommand c))
    | none => decodeAccess base (encode base i) = .ok i) ∧
  (∀ (w : Word) (c : Command), decodeCommand w = .ok c → encodeCommand c = w) ∧
  ∀ (base : Nat) (a : Access) (i : Instr), decodeAccess base a = .ok i →
    i.command? = none ∧ (encode base i).dir = a.dir ∧ (encode base i).addr = a.addr ∧
      (encode base i).size = a.size ∧ (a.dir = .write → encode base i = a)

/-- R72: the opcode map, word by word, and as its (match, mask) pairs. -/
def Obligations.LegalWordsAreTheOpcodeMap : Prop :=
  (∀ (w : Word) (c : Command), decodeCommand w = .ok c ↔
    match c with
    | .nop => w = 0x00000000
    | .init => w = 0x00000001
    | .clr => w = 0x00000002
    | .push b => w.toNat = 256 * b.toNat + 3
    | .encode => w = 0x00000004
    | .ack => w = 0x00000005
    | .resend => w = 0x00000006
    | .erst => w = 0x00000007
    | .clrev => w = 0x00000008
    | .raw => w = 0x00000009) ∧
  (∀ w : Word, (∃ c, decodeCommand w = .ok c) ↔ legalWord w = true)

/-- R73: the verdict on a word written to CMD, from its fields taken by division and in every state; a reserved opcode goes
before nonzero reserved bits, and a legal word runs its command. -/
def Obligations.CommandDecodeVerdict : Prop :=
  ∀ (w : Word) (s : State),
    if 0xA ≤ w.toNat % 16 then exec (.wrCmd w) s = .next (refuse .illOp w s)
    else if w.toNat / 16 % 16 ≠ 0 ∨ w.toNat / 65536 ≠ 0 then exec (.wrCmd w) s = .next (refuse .illRsvd w s)
    else if w.toNat % 16 ≠ 3 ∧ w.toNat / 256 % 256 ≠ 0 then exec (.wrCmd w) s = .next (refuse .illRsvd w s)
    else ∃ c, decodeCommand w = .ok c ∧ encodeCommand c = w ∧ exec (.wrCmd w) s = exec c.toInstr s

/-- R51, R53, R54, R78: an access outside the window is not decoded; one inside decodes exactly when it is an aligned word
in a direction its offset allows, and then to the row of that direction and offset. -/
def Obligations.AccessDecodeVerdict : Prop :=
  ∀ (base : Nat) (a : Access),
    (a.inWindow base = false → decodeAccess base a = .error .outside) ∧
    (a.inWindow base = true → a.wf base = false →
      ∃ e, e ≠ AccessError.outside ∧ decodeAccess base a = .error e) ∧
    (a.wf base = true → ∃ i, i.command? = none ∧ decodeAccess base a = .ok i ∧
      (encode base i).dir = a.dir ∧ (encode base i).addr = a.addr ∧
      (a.dir = .write → (encode base i).data = a.data))

/-- R79: the worked encodings decode as the spec says. The last two clauses are the model's choice (DESIGN CHOICE, log 12):
the opcode table's BUS words hold no direction and no data, and the model reads CMD's as a write of 0 and SEQ's as a read. -/
def Obligations.WorkedEncodingsDecode : Prop :=
  decodeTableWord 32 0x00004703 = some (.push 0x47) ∧ decodeTableWord 32 0x00000A03 = some (.push 0x0A) ∧
  decodeTableWord 32 0x00000003 = some (.push 0x00) ∧ decodeTableWord 32 0x00000004 = some .encode ∧
  decodeCommand 0x00000104 = .error .illRsvd ∧ decodeCommand 0x0000000A = .error .illOp ∧
  decodeCommand 0x00010003 = .error .illRsvd ∧ decodeCommand 0x000000F0 = .error .illRsvd ∧
  decodeTableWord 8 0x00 = some (.wrCmd 0) ∧ decodeTableWord 8 0x08 = some .rdSeq

/-- R56: lane k holds bits 8k+7:8k, and the four lanes give the word back. -/
def Obligations.BusLanesAreLittleEndian : Prop :=
  ∀ w : Word, wordOfLanes (lanesOf w) = some w ∧
    ∀ k, k < 4 → (lanesOf w)[k]? = some (BitVec.ofNat 8 (w.toNat / 256 ^ k))

/-! ## The pure functions -/

/-- R100: the fold starts from zero and takes every byte once; with the concatenation law (R104 item 3) this fixes it. -/
def Obligations.XorfoldOfConcatenation : Prop :=
  xorfold [] = 0 ∧ (∀ b : Byte, xorfold [b] = b) ∧ (∀ a b : Bytes, xorfold (a ++ b) = xorfold a ^^^ xorfold b) ∧
  ∀ (seq : Word) (c : Bytes), xorfold (payload seq c) = 0x6E ^^^ xorfold (dec seq) ^^^ xorfold c

/-- R104 item 2: the checksum does not depend on the order of the bytes. -/
def Obligations.XorfoldIsOrderIndependent : Prop :=
  ∀ s t : Bytes, s.Perm t → xorfold s = xorfold t

/-- R101: dec renders its value in decimal digits, with no leading zero, in 1 to 10 bytes, and 1 to 3 for a checksum. -/
def Obligations.DecRendersTheValue : Prop :=
  ∀ n : Word, digitsValue (dec n) = n.toNat ∧ (∀ b ∈ dec n, 0x30 ≤ b.toNat ∧ b.toNat ≤ 0x39) ∧
    ((dec n).head? = some 0x30 → dec n = [0x30]) ∧ 1 ≤ (dec n).length ∧ (dec n).length ≤ 10 ∧
    (n.toNat < 256 → (dec n).length ≤ 3)

/-- R102, R103: the bytes of a frame, with the character codes of R10. -/
def Obligations.FrameLayout : Prop :=
  ∀ (seq : Word) (c : Bytes),
    frameBytes seq c =
      (0x4E :: dec seq ++ 0x20 :: c) ++
        0x2A :: dec (BitVec.ofNat 32 (xorfold (0x4E :: dec seq ++ 0x20 :: c)).toNat) ++ [0x0A]

/-- R104 item 4: the length of a frame and its bounds. -/
def Obligations.FrameLength : Prop :=
  ∀ (seq : Word) (c : Bytes),
    (frameBytes seq c).length =
      4 + (dec seq).length + c.length + (dec (BitVec.ofNat 32 (xorfold (payload seq c)).toNat)).length ∧
    6 ≤ (frameBytes seq c).length ∧ (frameBytes seq c).length ≤ c.length + 17

/-- A frame determines the sequence number and the command it carries (from R101 to R103). -/
def Obligations.FrameDeterminesSequenceAndCommand : Prop :=
  ∀ (n n' : Word) (c c' : Bytes), frameBytes n c = frameBytes n' c' → n = n' ∧ c = c'

/-! ## Commands -/

/-- R140: NOP changes nothing in any state, and no other word of opcode 0 is a NOP. -/
def Obligations.NopChangesNothing : Prop :=
  (∀ s : State, exec .nop s = .next s) ∧
  ∀ w : Word, w.toNat % 16 = 0 → w ≠ 0 → ∀ s : State, exec (.wrCmd w) s = .next (refuse .illRsvd w s)

/-- R141: INIT gives every state element but IEN its reset value, in every state; the buffers' bytes are not named here,
because the spec leaves them open. The wire and everything else stay. -/
def Obligations.InitRestoresResetValues : Prop :=
  decodeCommand 0x00000001 = .ok .init ∧
  ∀ s : State, ∃ t, exec .init s = .next t ∧
    t.seq = 1 ∧ t.streak = 0 ∧ t.cmdlen = 0 ∧ t.cmdtrunc = false ∧ t.framelen = 0 ∧ t.txptr = 0 ∧
    t.txbusy = false ∧ t.fvalid = false ∧ t.chksum = 0 ∧ t.txdone = false ∧ t.errIll = false ∧
    t.errState = false ∧ t.seqwrap = false ∧ t.errcause = 0 ∧ t.errcmd = 0 ∧ statusWord t = 0 ∧
    { t with
      seq := s.seq, streak := s.streak, cmdbuf := s.cmdbuf, cmdlen := s.cmdlen, cmdtrunc := s.cmdtrunc
      frame := s.frame, framelen := s.framelen, txptr := s.txptr, txbusy := s.txbusy, fvalid := s.fvalid
      chksum := s.chksum, txdone := s.txdone, errIll := s.errIll, errState := s.errState, seqwrap := s.seqwrap
      errcause := s.errcause, errcmd := s.errcmd } = s

/-- R105: CLR empties the command buffer and changes nothing else, also while a frame is being sent. -/
def Obligations.ClrEmptiesTheCommandBuffer : Prop :=
  decodeCommand 0x00000002 = .ok .clr ∧
  ∀ s : State, exec .clr s = .next { s with cmdlen := 0, cmdtrunc := false }

/-- R106: PUSH appends its byte, whatever it is, or, with the buffer full, drops it and sets CMDTRUNC; nothing else changes,
no other byte of the buffer among it. -/
def Obligations.PushAppendsOrDrops : Prop :=
  (∀ b : Byte, decodeCommand (BitVec.ofNat 32 (256 * b.toNat + 3)) = .ok (.push b)) ∧
  ∀ (b : Byte) (s : State), s.cfg.wf = true → Memory.wf s.cmdbuf = true →
    (s.cmdlen.toNat < s.cfg.cmdMax → ∃ t, exec (.push b) s = .next t ∧
      t.cmdlen.toNat = s.cmdlen.toNat + 1 ∧ Memory.read t.cmdbuf s.cmdlen.toNat = b ∧
      (∀ i, i ≠ s.cmdlen.toNat → Memory.read t.cmdbuf i = Memory.read s.cmdbuf i) ∧
      commandBytes t = commandBytes s ++ [b] ∧ { t with cmdbuf := s.cmdbuf, cmdlen := s.cmdlen } = s) ∧
    (¬ s.cmdlen.toNat < s.cfg.cmdMax → exec (.push b) s = .next { s with cmdtrunc := true })

/-- R107: ENCODE builds the frame of SEQ and the command bytes, stores it and its checksum and starts sending it, leaving SEQ,
STREAK and the command buffer alone; or it is refused with BUSY, RSTPEND or TRUNC, in this order. -/
def Obligations.EncodeBuildsTheFrame : Prop :=
  decodeCommand 0x00000004 = .ok .encode ∧
  ∀ s : State, s.cfg.wf = true → s.cmdlen.toNat ≤ s.cfg.cmdMax → Memory.wf s.frame = true →
    if s.txbusy = true then exec .encode s = .next (refuse .busy 0x00000004 s)
    else if s.streak = 3 then exec .encode s = .next (refuse .rstPend 0x00000004 s)
    else if s.cmdtrunc = true then exec .encode s = .next (refuse .trunc 0x00000004 s)
    else ∃ t, exec .encode s = .next t ∧
      loadedFrame t = frameBytes s.seq (commandBytes s) ∧
      t.framelen.toNat = (frameBytes s.seq (commandBytes s)).length ∧
      (∀ i, (frameBytes s.seq (commandBytes s)).length ≤ i → Memory.read t.frame i = Memory.read s.frame i) ∧
      t.chksum = xorfold (payload s.seq (commandBytes s)) ∧
      t.txptr = 0 ∧ t.txbusy = true ∧ t.txdone = false ∧ t.fvalid = true ∧
      { t with
        frame := s.frame, framelen := s.framelen, chksum := s.chksum, txptr := s.txptr, txbusy := s.txbusy
        txdone := s.txdone, fvalid := s.fvalid } = s

/-- R108: RAW loads the command bytes and LF, starts sending them and drops the held frame, at any STREAK; or it is refused
with BUSY or TRUNC, in this order. CHKSUM, SEQ, STREAK and the command buffer stay. -/
def Obligations.RawSendsTheUnframedLine : Prop :=
  decodeCommand 0x00000009 = .ok .raw ∧
  ∀ s : State, s.cfg.wf = true → s.cmdlen.toNat ≤ s.cfg.cmdMax → Memory.wf s.frame = true →
    if s.txbusy = true then exec .raw s = .next (refuse .busy 0x00000009 s)
    else if s.cmdtrunc = true then exec .raw s = .next (refuse .trunc 0x00000009 s)
    else ∃ t, exec .raw s = .next t ∧
      loadedFrame t = commandBytes s ++ [0x0A] ∧ t.framelen.toNat = s.cmdlen.toNat + 1 ∧
      (∀ i, s.cmdlen.toNat + 1 ≤ i → Memory.read t.frame i = Memory.read s.frame i) ∧
      t.txptr = 0 ∧ t.txbusy = true ∧ t.txdone = false ∧ t.fvalid = false ∧
      { t with
        frame := s.frame, framelen := s.framelen, txptr := s.txptr, txbusy := s.txbusy
        txdone := s.txdone, fvalid := s.fvalid } = s

/-- R120: ACK moves SEQ on by 1 modulo 2^32, records a wrap, clears STREAK and FVALID and changes nothing else; or it is
refused with BUSY, RSTPEND or NOFRAME, in this order. -/
def Obligations.AckAdvancesTheSequence : Prop :=
  decodeCommand 0x00000005 = .ok .ack ∧
  ∀ s : State,
    if s.txbusy = true then exec .ack s = .next (refuse .busy 0x00000005 s)
    else if s.streak = 3 then exec .ack s = .next (refuse .rstPend 0x00000005 s)
    else if s.fvalid = false then exec .ack s = .next (refuse .noFrame 0x00000005 s)
    else ∃ t, exec .ack s = .next t ∧ t.seq.toNat = (s.seq.toNat + 1) % 2 ^ 32 ∧
      t.streak = 0 ∧ t.fvalid = false ∧
      t.seqwrap = (if s.seq = 0xFFFFFFFF then true else s.seqwrap) ∧
      { t with seq := s.seq, streak := s.streak, fvalid := s.fvalid, seqwrap := s.seqwrap } = s

/-- R121: RESEND counts, and below the threshold sends the same frame again from byte 0; at the threshold nothing is
sent. Or it is refused with BUSY, RSTPEND or NOFRAME, in this order. FRAME, SEQ and CHKSUM stay. -/
def Obligations.ResendCountsAndReplays : Prop :=
  decodeCommand 0x00000006 = .ok .resend ∧
  ∀ s : State,
    if s.txbusy = true then exec .resend s = .next (refuse .busy 0x00000006 s)
    else if s.streak = 3 then exec .resend s = .next (refuse .rstPend 0x00000006 s)
    else if s.fvalid = false then exec .resend s = .next (refuse .noFrame 0x00000006 s)
    else if s.streak.toNat + 1 < 3 then ∃ t, exec .resend s = .next t ∧
      t.streak.toNat = s.streak.toNat + 1 ∧ t.txptr = 0 ∧ t.txbusy = true ∧ t.txdone = false ∧
      { t with streak := s.streak, txptr := s.txptr, txbusy := s.txbusy, txdone := s.txdone } = s
    else ∃ t, exec .resend s = .next t ∧ t.streak = 3 ∧ rstreq t = true ∧ { t with streak := s.streak } = s

/-- R122: ERST sets SEQ to 1 and clears STREAK and FVALID, whatever STREAK is, and changes nothing else; refused for BUSY
only. -/
def Obligations.ErstRenumbers : Prop :=
  decodeCommand 0x00000007 = .ok .erst ∧
  ∀ s : State,
    if s.txbusy = true then exec .erst s = .next (refuse .busy 0x00000007 s)
    else exec .erst s = .next { s with seq := 1, streak := 0, fvalid := false }

/-- R142: CLREV clears the four sticky bits, ERRCAUSE and ERRCMD, and changes nothing else; RSTREQ follows STREAK still. -/
def Obligations.ClrevClearsTheEvents : Prop :=
  decodeCommand 0x00000008 = .ok .clrev ∧
  ∀ s : State, ∃ t, exec .clrev s = .next t ∧
    t = { s with txdone := false, errIll := false, errState := false, seqwrap := false, errcause := 0, errcmd := 0 } ∧
    rstreq t = rstreq s

/-! ## Bus accesses -/

/-- R151 to R159: each of these reads, at its offset, returns its register, widened with zeros, and changes nothing of the
block. -/
def Obligations.ReadsReturnTheRegister : Prop :=
  (∀ (base : Nat) (d : Word), ∀ p ∈ [(0x08, Instr.rdSeq), (0x0C, .rdStreak), (0x10, .rdChksum), (0x14, .rdCmdlen),
      (0x18, .rdFramelen), (0x1C, .rdTxptr), (0x20, .rdIen), (0x24, .rdErrcause), (0x28, .rdErrcmd)],
    decodeAccess base { dir := .read, addr := base + p.1, size := 4, data := d } = .ok p.2) ∧
  ∀ s : State,
    exec .rdSeq s = .next { s with rdata := some s.seq } ∧
    exec .rdStreak s = .next { s with rdata := some (BitVec.ofNat 32 s.streak.toNat) } ∧
    exec .rdChksum s = .next { s with rdata := some (BitVec.ofNat 32 s.chksum.toNat) } ∧
    exec .rdCmdlen s = .next { s with rdata := some (BitVec.ofNat 32 s.cmdlen.toNat) } ∧
    exec .rdFramelen s = .next { s with rdata := some (BitVec.ofNat 32 s.framelen.toNat) } ∧
    exec .rdTxptr s = .next { s with rdata := some (BitVec.ofNat 32 s.txptr.toNat) } ∧
    exec .rdIen s = .next { s with rdata := some s.ien } ∧
    exec .rdErrcause s = .next { s with rdata := some (BitVec.ofNat 32 s.errcause.toNat) } ∧
    exec .rdErrcmd s = .next { s with rdata := some s.errcmd }

/-- R161 (R33): rd ID returns VERSION 1, THRESH 3 and CMD_MAX, for every CMD_MAX the parameters admit. -/
def Obligations.ReadIdReturnsTheParameters : Prop :=
  (∀ (base : Nat) (d : Word), decodeAccess base { dir := .read, addr := base + 0x2C, size := 4, data := d } = .ok .rdId) ∧
  ∀ s : State, s.cfg.wf = true →
    exec .rdId s = .next { s with rdata := some (BitVec.ofNat 32 (0x01030000 + s.cfg.cmdMax)) }

/-- R150 (R30): rd STATUS returns the flags at their bits, RSTREQ and IRQ computed, the other bits 0, and changes nothing of
the block. -/
def Obligations.ReadStatusReturnsTheFlags : Prop :=
  (∀ (base : Nat) (d : Word),
    decodeAccess base { dir := .read, addr := base + 0x04, size := 4, data := d } = .ok .rdStatus) ∧
  ∀ s : State, ∃ v : Word, exec .rdStatus s = .next { s with rdata := some v } ∧
    v.getLsbD 0 = s.txbusy ∧ v.getLsbD 1 = s.fvalid ∧ (v.getLsbD 2 = true ↔ s.streak = 3) ∧
    v.getLsbD 3 = s.cmdtrunc ∧ v.getLsbD 4 = s.txdone ∧ v.getLsbD 5 = s.errIll ∧ v.getLsbD 6 = s.errState ∧
    v.getLsbD 7 = s.seqwrap ∧ v.getLsbD 8 = irq s ∧ ∀ k, 9 ≤ k → v.getLsbD k = false

/-- R35, with the OR of R207: irq is 0 at reset, is the OR over the five sources of STATUS bit and IEN bit, and equals ((STATUS & IEN) & 0xF4) != 0. -/
def Obligations.IrqIsTheOrOfEnabledSources : Prop :=
  irq State.reset = false ∧
  ∀ s : State,
    irq s = ((statusWord s &&& s.ien) &&& 0x000000F4 != 0) ∧ (statusWord s).getLsbD 8 = irq s ∧
    irq s = (rstreq s && s.ien.getLsbD 2 || s.txdone && s.ien.getLsbD 4 || s.errIll && s.ien.getLsbD 5 ||
      s.errState && s.ien.getLsbD 6 || s.seqwrap && s.ien.getLsbD 7)

/-- R162: wr IEN keeps the five writable bits of its word and changes nothing else. -/
def Obligations.WriteIenKeepsTheWritableBits : Prop :=
  (∀ (base : Nat) (v : Word),
    decodeAccess base { dir := .write, addr := base + 0x20, size := 4, data := v } = .ok (.wrIen v)) ∧
  ∀ (v : Word) (s : State), ∃ t, exec (.wrIen v) s = .next t ∧ { t with ien := s.ien } = s ∧
    ∀ k, t.ien.getLsbD k = (v.getLsbD k && (k == 2 || k == 4 || k == 5 || k == 6 || k == 7))

/-- R160: wr CMD runs the command its word decodes to, refuses an illegal word, and completes either way. -/
def Obligations.WriteToCmdRunsTheCommand : Prop :=
  (∀ (base : Nat) (w : Word),
    decodeAccess base { dir := .write, addr := base + 0x00, size := 4, data := w } = .ok (.wrCmd w)) ∧
  ∀ (w : Word) (s : State),
    (∀ c, decodeCommand w = .ok c → exec (.wrCmd w) s = exec c.toInstr s) ∧
    (decodeCommand w = .error .illOp → exec (.wrCmd w) s = .next (refuse .illOp w s)) ∧
    (decodeCommand w = .error .illRsvd → exec (.wrCmd w) s = .next (refuse .illRsvd w s)) ∧
    ∃ t, exec (.wrCmd w) s = .next t

/-- R200, with the codes of R201: what a refusal records, and that it changes nothing else. -/
def Obligations.RefusalRecordsTheFirstCause : Prop :=
  (∀ (code : Cause) (w : Word) (s : State),
    (refuse code w s).errIll = (if code = .illOp ∨ code = .illRsvd then true else s.errIll) ∧
    (refuse code w s).errState = (if code = .illOp ∨ code = .illRsvd then s.errState else true) ∧
    (s.errcause = 0 → (refuse code w s).errcause = code.code ∧ (refuse code w s).errcmd = w) ∧
    (s.errcause ≠ 0 → (refuse code w s).errcause = s.errcause ∧ (refuse code w s).errcmd = s.errcmd) ∧
    { refuse code w s with
      errIll := s.errIll, errState := s.errState, errcause := s.errcause, errcmd := s.errcmd } = s) ∧
  [Cause.illOp, .illRsvd, .busy, .rstPend, .noFrame, .trunc].map Cause.code = [1, 2, 3, 4, 5, 6]

/-- The second item of R176, with R175: while TXBUSY = 1 the five commands that need a quiet transmitter are refused with BUSY;
and whatever instruction answers a next state, INIT apart, leaves TXBUSY, TXPTR and the bytes still to be sent as they are. -/
def Obligations.CommandsDuringATransmission : Prop :=
  ∀ (s : State), s.txbusy = true →
    (∀ c : Command, c = .encode ∨ c = .raw ∨ c = .ack ∨ c = .resend ∨ c = .erst →
      exec c.toInstr s = .next (refuse .busy (encodeCommand c) s)) ∧
    (∀ (i : Instr) (t : State), exec i s = .next t → (∀ w, i = .wrCmd w → decodeCommand w ≠ .ok .init) → i ≠ .init →
      t.txbusy = true ∧ t.txptr = s.txptr ∧ pendingBytes t = pendingBytes s)

/-! ## The step -/

/-- R60, R160: at a host access that decodes, with rst low, the step is the instruction's meaning on the state with the
access consumed and the step counted (the event list and the counter are the model's, logs 1 and 11). -/
def Obligations.StepRunsTheDecodedAccess : Prop :=
  ∀ (s : State) (a : Access) (rest : List Input) (i : Instr), s.inputs = .host a :: rest → s.rst = false →
    decodeAccess s.cfg.base a = .ok i → step s = exec i { s with inputs := rest, tick := s.tick + 1 }

/-- R53, R54, R163, R203: a host access in the window is a fault with its address exactly when the block does not define
it. -/
def Obligations.UndefinedAccessesAreBusErrors : Prop :=
  ∀ (s : State) (a : Access) (rest : List Input), s.inputs = .host a :: rest → s.rst = false →
    a.inWindow s.cfg.base = true →
    (a.wf s.cfg.base = false → step s = .fault (.busError a.addr)) ∧
    (a.wf s.cfg.base = true → ∃ t, step s = .next t)

/-- What the model stops on otherwise: a host access while rst is held (R230, I8; log 6) and a second host (R213; log 7). -/
def Obligations.AccessesWithoutAStepStop : Prop :=
  ∀ (s : State) (a : Access) (rest : List Input),
    (s.inputs = .host a :: rest → s.rst = true → step s = .fault .accessDuringReset) ∧
    (s.inputs = .otherHost a :: rest → step s = .refused .secondHost)

/-- What does not reach the block changes nothing of it. That each of these is a step that answers a next state is the
model's choice: no event at all (DESIGN CHOICE, log 2); an access outside the window, which by R51 never reaches the
block, with `rdata` kept (DEDUCED, log 8); an offer of the sink while TXBUSY = 0 (DESIGN CHOICE, log 9). -/
def Obligations.EventsThatChangeNothing : Prop :=
  ∀ s : State,
    (s.inputs = [] → step s = .next { s with tick := s.tick + 1 }) ∧
    (∀ a rest, s.inputs = .host a :: rest → s.rst = false → a.inWindow s.cfg.base = false →
      step s = .next { s with inputs := rest, tick := s.tick + 1 }) ∧
    (∀ rest, s.inputs = .sinkReady :: rest → s.txbusy = false →
      step s = .next { s with inputs := rest, tick := s.tick + 1 })

/-- R171: a transfer puts tx_data, the byte at TXPTR, on the wire and moves TXPTR on, and the last byte clears TXBUSY and sets
TXDONE; nothing else of the block changes. -/
def Obligations.TransferSendsTheNextByte : Prop :=
  ∀ (s : State) (rest : List Input), s.inputs = .sinkReady :: rest → s.txbusy = true →
    txValid s = true ∧ txData s = Memory.read s.frame s.txptr.toNat ∧
    ∃ t, step s = .next t ∧ t.wire = s.wire ++ [txData s] ∧ t.txptr = s.txptr + 1 ∧
      (if s.txptr + 1 = s.framelen then t.txbusy = false ∧ t.txdone = true
        else t.txbusy = true ∧ t.txdone = s.txdone) ∧
      { t with
        wire := s.wire, txptr := s.txptr, txbusy := s.txbusy, txdone := s.txdone } =
      { s with inputs := rest, tick := s.tick + 1 }

/-- R230: the assertion of rst gives every state element its reset value, IEN included, whatever was going on, and keeps the
wire (R173). While it is held the level is 1. The buffers' bytes are not named: the spec leaves them open. -/
def Obligations.ResetAssertionForcesResetValues : Prop :=
  ∀ (s : State) (rest : List Input), s.inputs = .rst true :: rest → ∃ t, step s = .next t ∧
    t.seq = 1 ∧ t.streak = 0 ∧ t.cmdlen = 0 ∧ t.cmdtrunc = false ∧ t.framelen = 0 ∧ t.txptr = 0 ∧
    t.txbusy = false ∧ t.fvalid = false ∧ t.chksum = 0 ∧ t.txdone = false ∧ t.errIll = false ∧
    t.errState = false ∧ t.seqwrap = false ∧ t.ien = 0 ∧ t.errcause = 0 ∧ t.errcmd = 0 ∧ statusWord t = 0 ∧
    t.wire = s.wire ∧ t.cfg = s.cfg ∧ t.rst = true

/-- The state after reset: the registers and flags of R231; no byte on the wire (R173); and the ID word of R33, whose
value rests on the model's choice that State.reset takes the default CMD_MAX (DESIGN CHOICE, log 3). -/
def Obligations.ResetStateValues : Prop :=
  State.reset.seq = 1 ∧ State.reset.streak = 0 ∧ rstreq State.reset = false ∧ State.reset.cmdlen = 0 ∧
  State.reset.cmdtrunc = false ∧ State.reset.framelen = 0 ∧ State.reset.txptr = 0 ∧ State.reset.txbusy = false ∧
  State.reset.fvalid = false ∧ State.reset.chksum = 0 ∧ State.reset.txdone = false ∧ State.reset.errIll = false ∧
  State.reset.errState = false ∧ State.reset.seqwrap = false ∧ statusWord State.reset = 0 ∧ State.reset.ien = 0 ∧
  State.reset.errcause = 0 ∧ State.reset.errcmd = 0 ∧ irq State.reset = false ∧ txValid State.reset = false ∧
  State.reset.wire = [] ∧ idWord State.reset.cfg = 0x01030080

/-- R233: INIT equals an assertion of rst in every respect but that it keeps IEN and is no input. That the bytes of the two
buffers are equal too is the model's choice (log 4). -/
def Obligations.InitEqualsResetButIen : Prop :=
  ∀ s : State, exec .init s = .next { assertReset s with ien := s.ien, rst := s.rst }

/-! ## Laws of every step -/

/-- R22: SEQ changes only by an accepted ACK (+1), or to 1 by ERST, INIT or a reset. -/
def Obligations.SeqChangesOnlyByItsCommands : Prop :=
  ∀ s t : State, step s = .next t →
    (acceptsAck s = false ∧ t.seq = s.seq) ∨ (acceptsAck s = true ∧ t.seq = s.seq + 1) ∨
    (t.seq = 1 ∧ (nextIsCommand s .erst ∨ nextIsCommand s .init ∨ nextIsReset s))

/-- R23: STREAK goes up by 1 only by RESEND and only below 3, and changes otherwise only to 0, by ACK, ERST, INIT or a
reset. -/
def Obligations.StreakChangesOnlyByItsCommands : Prop :=
  ∀ s t : State, step s = .next t →
    t.streak = s.streak ∨
    (nextIsCommand s .resend ∧ t.streak.toNat = s.streak.toNat + 1) ∨
    (t.streak = 0 ∧ (nextIsCommand s .ack ∨ nextIsCommand s .erst ∨ nextIsCommand s .init ∨ nextIsReset s))

/-- R31: a sticky bit stays set until one of its clearing commands: CLREV, INIT or a reset, and for TXDONE also the start of a
transmission, which always clears it. -/
def Obligations.StickyBitsStayUntilCleared : Prop :=
  ∀ s t : State, step s = .next t → ¬ nextIsCommand s .clrev → ¬ nextIsCommand s .init → ¬ nextIsReset s →
    (s.errIll = true → t.errIll = true) ∧ (s.errState = true → t.errState = true) ∧
    (s.seqwrap = true → t.seqwrap = true) ∧
    (s.txdone = true → t.txdone = true ∨ (s.txbusy = false ∧ t.txbusy = true ∧ t.txptr = 0)) ∧
    (s.txbusy = false → t.txbusy = true → t.txdone = false)

/-- R34, R202: a recorded refusal is kept, with its word, until CLREV, INIT or a reset. -/
def Obligations.FirstRefusalIsKept : Prop :=
  ∀ s t : State, step s = .next t → s.errcause ≠ 0 →
    ¬ nextIsCommand s .clrev → ¬ nextIsCommand s .init → ¬ nextIsReset s →
    t.errcause = s.errcause ∧ t.errcmd = s.errcmd

/-- R32, R205: IEN changes only by wr IEN, to the writable bits of its word, and to 0 by a reset. -/
def Obligations.IenChangesOnlyByItsWrite : Prop :=
  ∀ s t : State, step s = .next t →
    t.ien = s.ien ∨ (nextIsReset s ∧ t.ien = 0) ∨
    ∃ v : Word, s.inputs.head? = some (.host (encode s.cfg.base (.wrIen v))) ∧ t.ien = v &&& 0x000000F4

/-- R208: no step sets two event bits. -/
def Obligations.AtMostOneEventBitRises : Prop :=
  ∀ s t : State, step s = .next t →
    ([(s.errIll, t.errIll), (s.errState, t.errState), (s.seqwrap, t.seqwrap), (rstreq s, rstreq t),
      (s.txdone, t.txdone)].countP fun p => !p.1 && p.2) ≤ 1

/-- R175: while TXBUSY = 1, FRAMELEN and every byte of FRAME stay as they are, unless INIT or a reset ends the transmission. -/
def Obligations.FrameIsStableWhileBusy : Prop :=
  ∀ s t : State, step s = .next t → s.txbusy = true →
    (t.framelen = s.framelen ∧ ∀ i, Memory.read t.frame i = Memory.read s.frame i) ∨
    (t.txbusy = false ∧ (nextIsCommand s .init ∨ nextIsReset s))

/-- R173: the wire only grows, and only by the pending byte of a transmission taken by the sink. -/
def Obligations.WireGrowsOnlyByTransfers : Prop :=
  ∀ s t : State, step s = .next t →
    t.wire = s.wire ∨
    (s.inputs.head? = some .sinkReady ∧ s.txbusy = true ∧
      t.wire = s.wire ++ [Memory.read s.frame s.txptr.toNat])

/-- R38 item 5: FRAMELEN, once not 0, becomes 0 only by INIT or a reset. -/
def Obligations.FramelenStaysNonzero : Prop :=
  ∀ s t : State, BlockInv s → step s = .next t → s.framelen ≠ 0 →
    t.framelen ≠ 0 ∨ nextIsCommand s .init ∨ nextIsReset s

/-- R38 and what accompanies it: the invariant holds at reset. That the parameters are in range there and that both buffers
are empty lists rests on the model's choices for State.reset (DESIGN CHOICE, logs 3 and 4). -/
def Obligations.InvHoldsAtReset : Prop := BlockInv State.reset

/-- R38 and what accompanies it: every step keeps the invariant, from every state that has it. -/
def Obligations.EveryStepKeepsInv : Prop :=
  ∀ s t : State, BlockInv s → step s = .next t → BlockInv t

/-! ## Runs -/

/-- R171, R172, R175: a sink that keeps taking bytes gets exactly the rest of the frame, and the transmission ends. -/
def Obligations.DrainSendsThePendingBytes : Prop :=
  ∀ (s : State) (rest : List Input), BlockInv s → s.txbusy = true →
    s.inputs = txEvents (s.framelen.toNat - s.txptr.toNat) ++ rest →
    ∃ t, run (s.framelen.toNat - s.txptr.toNat) s = .next t ∧ t.wire = s.wire ++ pendingBytes s ∧
      t.txbusy = false ∧ t.txdone = true ∧ t.txptr = s.framelen ∧ t.inputs = rest ∧
      { t with
        wire := s.wire, txbusy := s.txbusy, txdone := s.txdone, txptr := s.txptr, inputs := s.inputs
        tick := s.tick } = s

/-- R77 with R102, R103, R105 to R107, R171: SEND c on a quiet block, drained, puts exactly the frame of SEQ and c on the wire,
for every command c that fits the buffer, and holds it for a verdict. -/
def Obligations.SendTransmitsTheFrame : Prop :=
  ∀ (s : State) (c : Bytes) (rest : List Input), BlockInv s → s.rst = false → s.txbusy = false → s.streak ≠ 3 →
    c.length ≤ s.cfg.cmdMax →
    s.inputs = commandEvents s.cfg.base (send c) ++ txEvents (frameBytes s.seq c).length ++ rest →
    ∃ t, run ((send c).length + (frameBytes s.seq c).length) s = .next t ∧
      t.wire = s.wire ++ frameBytes s.seq c ∧ t.seq = s.seq ∧ t.streak = s.streak ∧ t.fvalid = true ∧
      t.txbusy = false ∧ t.txdone = true ∧ t.chksum = xorfold (payload s.seq c) ∧ commandBytes t = c ∧
      t.inputs = rest

/-- R123: three RESENDs of one held frame, each after the last transmission has drained: two send the frame again, byte for
byte, and the third sends nothing and raises RSTREQ. -/
def Obligations.ResendEscalation : Prop :=
  ∀ (s : State) (rest : List Input), BlockInv s → s.rst = false → s.fvalid = true → s.streak = 0 → s.txbusy = false →
    s.inputs = commandEvents s.cfg.base [.resend] ++ txEvents s.framelen.toNat ++
      commandEvents s.cfg.base [.resend] ++ txEvents s.framelen.toNat ++
      commandEvents s.cfg.base [.resend] ++ rest →
    ∃ t, run (2 * s.framelen.toNat + 3) s = .next t ∧ t.wire = s.wire ++ loadedFrame s ++ loadedFrame s ∧
      t.streak = 3 ∧ rstreq t = true ∧ t.txbusy = false ∧ t.fvalid = true ∧ t.seq = s.seq ∧ t.inputs = rest

/-- R124: in a run with no ERST, INIT or reset to come, SEQ moves by the number of accepted ACKs, modulo 2^32. -/
def Obligations.SequenceLaw : Prop :=
  ∀ (k : Nat) (s t : State), run k s = .next t → (∀ e ∈ s.inputs, Input.renumbers s.cfg.base e = false) →
    t.seq = s.seq + BitVec.ofNat 32 (ackCount k s)
end

