-- ==== Sys2Proof/Laws/Memory.lean ====
section
/-! SUPPORT. The laws of the byte buffers: read after write, and every operation keeps the canonical form. -/

namespace Sys2Proof.Machine

@[simp] theorem Memory.read_nil (i : Nat) : Memory.read [] i = unwrittenByte := rfl

theorem Memory.read_cons (j : Nat) (c : Byte) (m : Memory) (i : Nat) :
    Memory.read ((j, c) :: m) i = if i = j then c else Memory.read m i := rfl

theorem Memory.wfAbove_cons (lo : Option Nat) (j : Nat) (c : Byte) (m : Memory) :
    Memory.wfAbove lo ((j, c) :: m) = true ↔
      (∀ l, lo = some l → l < j) ∧ c ≠ unwrittenByte ∧ Memory.wfAbove (some j) m = true := by
  cases lo <;> simp [Memory.wfAbove, and_assoc]

/-- A lower bound may be lowered, or dropped. -/
theorem Memory.wfAbove_weaken {lo lo' : Option Nat} {m : Memory} (h : Memory.wfAbove lo m = true)
    (hl : ∀ l', lo' = some l' → ∃ l, lo = some l ∧ l' ≤ l) : Memory.wfAbove lo' m = true := by
  cases m with
  | nil => rfl
  | cons e m =>
    obtain ⟨j, c⟩ := e
    rw [Memory.wfAbove_cons] at h ⊢
    refine ⟨fun l' h' => ?_, h.2⟩
    obtain ⟨l, hl1, hl2⟩ := hl l' h'
    exact lt_of_le_of_lt hl2 (h.1 l hl1)

/-- An index at or below the lower bound of a canonical buffer is not listed. -/
theorem Memory.read_of_le {k i : Nat} {m : Memory} (h : Memory.wfAbove (some k) m = true) (hi : i ≤ k) :
    Memory.read m i = unwrittenByte := by
  induction m generalizing k with
  | nil => rfl
  | cons e m ih =>
    obtain ⟨j, c⟩ := e
    obtain ⟨hj, -, hm⟩ := (Memory.wfAbove_cons _ _ _ _).1 h
    have hkj := hj k rfl
    rw [Memory.read_cons, if_neg (by omega)]
    exact ih hm (by omega)

/-- A write keeps the canonical form. -/
theorem Memory.write_wfAbove {lo : Option Nat} {m : Memory} {i : Nat} {b : Byte}
    (h : Memory.wfAbove lo m = true) (hi : ∀ l, lo = some l → l < i) : Memory.wfAbove lo (Memory.write m i b) = true := by
  induction m generalizing lo with
  | nil =>
    rw [Memory.write]; split
    · rfl
    · rw [Memory.wfAbove_cons]; exact ⟨hi, ‹_›, rfl⟩
  | cons e m ih =>
    obtain ⟨j, c⟩ := e
    obtain ⟨hj, hc, hm⟩ := (Memory.wfAbove_cons _ _ _ _).1 h
    rw [Memory.write]
    split
    · split
      · exact h
      · rename_i hij hb
        rw [Memory.wfAbove_cons, Memory.wfAbove_cons]
        exact ⟨hi, hb, fun l hl => by injection hl with hl; omega, hc, hm⟩
    · split
      · rename_i hij
        split
        · exact Memory.wfAbove_weaken hm fun l' hl' => ⟨j, rfl, by have := hj l' hl'; omega⟩
        · rename_i hb
          rw [Memory.wfAbove_cons]; exact ⟨hi, hb, hij ▸ hm⟩
      · rw [Memory.wfAbove_cons]
        exact ⟨hj, hc, ih hm fun l hl => by injection hl with hl; omega⟩

theorem Memory.write_wf {m : Memory} {i : Nat} {b : Byte} (h : Memory.wf m = true) :
    Memory.wf (Memory.write m i b) = true :=
  Memory.write_wfAbove h fun _ h => by cases h

/-- Reading the byte just written gives it. -/
theorem Memory.read_write_same_above {lo : Option Nat} {m : Memory} {i : Nat} {b : Byte}
    (h : Memory.wfAbove lo m = true) : Memory.read (Memory.write m i b) i = b := by
  induction m generalizing lo with
  | nil => rw [Memory.write]; split <;> simp_all [Memory.read]
  | cons e m ih =>
    obtain ⟨j, c⟩ := e
    obtain ⟨-, -, hm⟩ := (Memory.wfAbove_cons _ _ _ _).1 h
    rw [Memory.write]
    split
    · split
      · rename_i hij hb
        rw [Memory.read_cons, if_neg (by omega), hb]
        exact Memory.read_of_le hm (by omega)
      · rw [Memory.read_cons, if_pos rfl]
    · split
      · rename_i hij
        split
        · rename_i hb
          rw [hb]; exact Memory.read_of_le hm (by omega)
        · rw [Memory.read_cons, if_pos rfl]
      · rename_i hij
        rw [Memory.read_cons, if_neg hij]
        exact ih hm

theorem Memory.read_write_same {m : Memory} {i : Nat} {b : Byte} (h : Memory.wf m = true) :
    Memory.read (Memory.write m i b) i = b :=
  Memory.read_write_same_above h

/-- A write leaves every other byte alone. -/
theorem Memory.read_write_other {m : Memory} {i k : Nat} {b : Byte} (hk : k ≠ i) :
    Memory.read (Memory.write m i b) k = Memory.read m k := by
  induction m with
  | nil => rw [Memory.write]; split <;> simp [Memory.read, hk]
  | cons e m ih =>
    obtain ⟨j, c⟩ := e
    rw [Memory.write]
    split
    · split
      · rfl
      · rw [Memory.read_cons, if_neg hk]
    · split
      · rename_i hij
        split <;> simp [Memory.read_cons, ← hij, hk]
      · rw [Memory.read_cons, Memory.read_cons, ih]

/-- A write below `n` keeps every listed index below `n`. -/
theorem Memory.write_within {m : Memory} {i n : Nat} {b : Byte} (h : Memory.within m n = true) (hi : i < n) :
    Memory.within (Memory.write m i b) n = true := by
  induction m with
  | nil => rw [Memory.write]; split <;> simp [Memory.within, hi]
  | cons e m ih =>
    obtain ⟨j, c⟩ := e
    have hj : j < n ∧ Memory.within m n = true := by simpa [Memory.within] using h
    rw [Memory.write]
    split
    · split
      · exact h
      · simpa [Memory.within, hi] using h
    · split
      · split
        · exact hj.2
        · simpa [Memory.within, hi] using hj.2
      · have := ih hj.2
        simpa [Memory.within, hj.1] using this

@[simp] theorem Memory.readBytes_length (m : Memory) (i n : Nat) : (Memory.readBytes m i n).length = n := by
  induction n generalizing i with
  | zero => rfl
  | succ n ih => simp [Memory.readBytes, ih]

theorem Memory.readBytes_append (m : Memory) (i n k : Nat) :
    Memory.readBytes m i (n + k) = Memory.readBytes m i n ++ Memory.readBytes m (i + n) k := by
  induction n generalizing i with
  | zero => simp [Memory.readBytes]
  | succ n ih =>
    rw [Nat.succ_add, Memory.readBytes, ih, Memory.readBytes, List.cons_append,
      show i + 1 + n = i + (n + 1) by omega]

/-- Two buffers that agree on a range give the same bytes there. -/
theorem Memory.readBytes_congr {m m' : Memory} {i n : Nat}
    (h : ∀ k, i ≤ k → k < i + n → Memory.read m k = Memory.read m' k) :
    Memory.readBytes m i n = Memory.readBytes m' i n := by
  induction n generalizing i with
  | zero => rfl
  | succ n ih =>
    rw [Memory.readBytes, Memory.readBytes, h i (by omega) (by omega),
      ih fun k h1 h2 => h k (by omega) (by omega)]

theorem Memory.writeBytes_wf {m : Memory} {i : Nat} {bs : Bytes} (h : Memory.wf m = true) :
    Memory.wf (Memory.writeBytes m i bs) = true := by
  induction bs generalizing m i with
  | nil => exact h
  | cons b bs ih => exact ih (Memory.write_wf h)

theorem Memory.writeBytes_within {m : Memory} {i n : Nat} {bs : Bytes} (h : Memory.within m n = true)
    (hi : i + bs.length ≤ n) : Memory.within (Memory.writeBytes m i bs) n = true := by
  induction bs generalizing m i with
  | nil => exact h
  | cons b bs ih =>
    rw [List.length_cons] at hi
    exact ih (Memory.write_within h (by omega)) (by omega)

/-- Bytes outside the written range are unchanged. -/
theorem Memory.read_writeBytes_outside {m : Memory} {i k : Nat} {bs : Bytes} (h : k < i ∨ i + bs.length ≤ k) :
    Memory.read (Memory.writeBytes m i bs) k = Memory.read m k := by
  induction bs generalizing m i with
  | nil => rfl
  | cons b bs ih =>
    rw [List.length_cons] at h
    rw [Memory.writeBytes, ih (by omega), Memory.read_write_other (by omega)]

/-- Reading back a written byte string gives it. -/
theorem Memory.readBytes_writeBytes {m : Memory} {i : Nat} {bs : Bytes} (h : Memory.wf m = true) :
    Memory.readBytes (Memory.writeBytes m i bs) i bs.length = bs := by
  induction bs generalizing m i with
  | nil => rfl
  | cons b bs ih =>
    rw [List.length_cons, Memory.readBytes, Memory.writeBytes, ih (Memory.write_wf h),
      Memory.read_writeBytes_outside (by omega), Memory.read_write_same h]

/-- Appending a byte to the range read: the range is one longer and ends in the byte. -/
theorem Memory.readBytes_write_end {m : Memory} {i n : Nat} {b : Byte} (h : Memory.wf m = true) :
    Memory.readBytes (Memory.write m (i + n) b) i (n + 1) = Memory.readBytes m i n ++ [b] := by
  rw [Memory.readBytes_append, Memory.readBytes, Memory.readBytes, Memory.read_write_same h]
  congr 1
  exact Memory.readBytes_congr fun k h1 h2 => Memory.read_write_other (by omega)

/-- Two canonical buffers with the same bytes are equal data. -/
theorem Memory.ext_of_wfAbove {lo : Option Nat} {m m' : Memory} (h : Memory.wfAbove lo m = true)
    (h' : Memory.wfAbove lo m' = true) (hr : ∀ i, Memory.read m i = Memory.read m' i) : m = m' := by
  induction m generalizing lo m' with
  | nil =>
    cases m' with
    | nil => rfl
    | cons e m' =>
      obtain ⟨j, c⟩ := e
      have := (Memory.wfAbove_cons _ _ _ _).1 h'
      have hj := hr j
      rw [Memory.read_cons, if_pos rfl] at hj
      exact absurd hj.symm this.2.1
  | cons e m ih =>
    obtain ⟨j, c⟩ := e
    obtain ⟨-, hc, hm⟩ := (Memory.wfAbove_cons _ _ _ _).1 h
    cases m' with
    | nil =>
      have hj := hr j
      rw [Memory.read_cons, if_pos rfl] at hj
      exact absurd hj hc
    | cons e' m' =>
      obtain ⟨j', c'⟩ := e'
      obtain ⟨-, hc', hm'⟩ := (Memory.wfAbove_cons _ _ _ _).1 h'
      have hjj : j = j' := by
        rcases Nat.lt_trichotomy j j' with hlt | heq | hgt
        · have hj := hr j
          rw [Memory.read_cons, if_pos rfl, Memory.read_cons, if_neg (by omega),
            Memory.read_of_le hm' (by omega)] at hj
          exact absurd hj hc
        · exact heq
        · have hj := hr j'
          rw [Memory.read_cons, if_neg (by omega), Memory.read_of_le hm (by omega), Memory.read_cons,
            if_pos rfl] at hj
          exact absurd hj.symm hc'
      subst hjj
      have hcc : c = c' := by
        have hj := hr j
        rwa [Memory.read_cons, if_pos rfl, Memory.read_cons, if_pos rfl] at hj
      subst hcc
      rw [ih hm hm' fun i => ?_]
      by_cases hi : i = j
      · rw [hi, Memory.read_of_le hm le_rfl, Memory.read_of_le hm' le_rfl]
      · have := hr i
        rwa [Memory.read_cons, if_neg hi, Memory.read_cons, if_neg hi] at this

theorem Memory.ext_of_wf {m m' : Memory} (h : Memory.wf m = true) (h' : Memory.wf m' = true)
    (hr : ∀ i, Memory.read m i = Memory.read m' i) : m = m' :=
  Memory.ext_of_wfAbove h h' hr

/-- The buffers of the reset state are in canonical form. -/
theorem State.reset_buffers_wf :
    Memory.wf State.reset.cmdbuf = true ∧ Memory.wf State.reset.frame = true := ⟨rfl, rfl⟩

end Sys2Proof.Machine
end

