-- ==== Sys2Proof/Laws/State.lean ====
section
/-! SUPPORT. One lemma per field of State for each shared update of the state, so that no proof unfolds a record update. The
proofs stand in parentheses, so that simp rewrites with them also under a Decidable argument. -/

namespace Sys2Proof.Machine

@[simp] theorem refuse_cfg (c : Cause) (w : Word) (s : State) : (refuse c w s).cfg = s.cfg := (rfl)
@[simp] theorem refuse_seq (c : Cause) (w : Word) (s : State) : (refuse c w s).seq = s.seq := (rfl)
@[simp] theorem refuse_streak (c : Cause) (w : Word) (s : State) : (refuse c w s).streak = s.streak := (rfl)
@[simp] theorem refuse_cmdbuf (c : Cause) (w : Word) (s : State) : (refuse c w s).cmdbuf = s.cmdbuf := (rfl)
@[simp] theorem refuse_cmdlen (c : Cause) (w : Word) (s : State) : (refuse c w s).cmdlen = s.cmdlen := (rfl)
@[simp] theorem refuse_cmdtrunc (c : Cause) (w : Word) (s : State) : (refuse c w s).cmdtrunc = s.cmdtrunc := (rfl)
@[simp] theorem refuse_frame (c : Cause) (w : Word) (s : State) : (refuse c w s).frame = s.frame := (rfl)
@[simp] theorem refuse_framelen (c : Cause) (w : Word) (s : State) : (refuse c w s).framelen = s.framelen := (rfl)
@[simp] theorem refuse_txptr (c : Cause) (w : Word) (s : State) : (refuse c w s).txptr = s.txptr := (rfl)
@[simp] theorem refuse_txbusy (c : Cause) (w : Word) (s : State) : (refuse c w s).txbusy = s.txbusy := (rfl)
@[simp] theorem refuse_fvalid (c : Cause) (w : Word) (s : State) : (refuse c w s).fvalid = s.fvalid := (rfl)
@[simp] theorem refuse_chksum (c : Cause) (w : Word) (s : State) : (refuse c w s).chksum = s.chksum := (rfl)
@[simp] theorem refuse_txdone (c : Cause) (w : Word) (s : State) : (refuse c w s).txdone = s.txdone := (rfl)
@[simp] theorem refuse_errIll (c : Cause) (w : Word) (s : State) : (refuse c w s).errIll = (s.errIll || c.isIllegal) := (rfl)
@[simp] theorem refuse_errState (c : Cause) (w : Word) (s : State) : (refuse c w s).errState = (s.errState || !c.isIllegal) := (rfl)
@[simp] theorem refuse_seqwrap (c : Cause) (w : Word) (s : State) : (refuse c w s).seqwrap = s.seqwrap := (rfl)
@[simp] theorem refuse_ien (c : Cause) (w : Word) (s : State) : (refuse c w s).ien = s.ien := (rfl)
@[simp] theorem refuse_errcause (c : Cause) (w : Word) (s : State) : (refuse c w s).errcause = (if s.errcause = 0 then c.code else s.errcause) := (rfl)
@[simp] theorem refuse_errcmd (c : Cause) (w : Word) (s : State) : (refuse c w s).errcmd = (if s.errcause = 0 then w else s.errcmd) := (rfl)
@[simp] theorem refuse_rst (c : Cause) (w : Word) (s : State) : (refuse c w s).rst = s.rst := (rfl)
@[simp] theorem refuse_wire (c : Cause) (w : Word) (s : State) : (refuse c w s).wire = s.wire := (rfl)
@[simp] theorem refuse_rdata (c : Cause) (w : Word) (s : State) : (refuse c w s).rdata = s.rdata := (rfl)
@[simp] theorem refuse_inputs (c : Cause) (w : Word) (s : State) : (refuse c w s).inputs = s.inputs := (rfl)
@[simp] theorem refuse_tick (c : Cause) (w : Word) (s : State) : (refuse c w s).tick = s.tick := (rfl)

@[simp] theorem replay_cfg (s : State) : (replay s).cfg = s.cfg := (rfl)
@[simp] theorem replay_seq (s : State) : (replay s).seq = s.seq := (rfl)
@[simp] theorem replay_streak (s : State) : (replay s).streak = s.streak := (rfl)
@[simp] theorem replay_cmdbuf (s : State) : (replay s).cmdbuf = s.cmdbuf := (rfl)
@[simp] theorem replay_cmdlen (s : State) : (replay s).cmdlen = s.cmdlen := (rfl)
@[simp] theorem replay_cmdtrunc (s : State) : (replay s).cmdtrunc = s.cmdtrunc := (rfl)
@[simp] theorem replay_frame (s : State) : (replay s).frame = s.frame := (rfl)
@[simp] theorem replay_framelen (s : State) : (replay s).framelen = s.framelen := (rfl)
@[simp] theorem replay_txptr (s : State) : (replay s).txptr = 0 := (rfl)
@[simp] theorem replay_txbusy (s : State) : (replay s).txbusy = true := (rfl)
@[simp] theorem replay_fvalid (s : State) : (replay s).fvalid = s.fvalid := (rfl)
@[simp] theorem replay_chksum (s : State) : (replay s).chksum = s.chksum := (rfl)
@[simp] theorem replay_txdone (s : State) : (replay s).txdone = false := (rfl)
@[simp] theorem replay_errIll (s : State) : (replay s).errIll = s.errIll := (rfl)
@[simp] theorem replay_errState (s : State) : (replay s).errState = s.errState := (rfl)
@[simp] theorem replay_seqwrap (s : State) : (replay s).seqwrap = s.seqwrap := (rfl)
@[simp] theorem replay_ien (s : State) : (replay s).ien = s.ien := (rfl)
@[simp] theorem replay_errcause (s : State) : (replay s).errcause = s.errcause := (rfl)
@[simp] theorem replay_errcmd (s : State) : (replay s).errcmd = s.errcmd := (rfl)
@[simp] theorem replay_rst (s : State) : (replay s).rst = s.rst := (rfl)
@[simp] theorem replay_wire (s : State) : (replay s).wire = s.wire := (rfl)
@[simp] theorem replay_rdata (s : State) : (replay s).rdata = s.rdata := (rfl)
@[simp] theorem replay_inputs (s : State) : (replay s).inputs = s.inputs := (rfl)
@[simp] theorem replay_tick (s : State) : (replay s).tick = s.tick := (rfl)

@[simp] theorem transmit_cfg (f : Bytes) (s : State) : (transmit f s).cfg = s.cfg := (rfl)
@[simp] theorem transmit_seq (f : Bytes) (s : State) : (transmit f s).seq = s.seq := (rfl)
@[simp] theorem transmit_streak (f : Bytes) (s : State) : (transmit f s).streak = s.streak := (rfl)
@[simp] theorem transmit_cmdbuf (f : Bytes) (s : State) : (transmit f s).cmdbuf = s.cmdbuf := (rfl)
@[simp] theorem transmit_cmdlen (f : Bytes) (s : State) : (transmit f s).cmdlen = s.cmdlen := (rfl)
@[simp] theorem transmit_cmdtrunc (f : Bytes) (s : State) : (transmit f s).cmdtrunc = s.cmdtrunc := (rfl)
@[simp] theorem transmit_frame (f : Bytes) (s : State) : (transmit f s).frame = Memory.writeBytes s.frame 0 f := (rfl)
@[simp] theorem transmit_framelen (f : Bytes) (s : State) : (transmit f s).framelen = BitVec.ofNat 16 f.length := (rfl)
@[simp] theorem transmit_txptr (f : Bytes) (s : State) : (transmit f s).txptr = 0 := (rfl)
@[simp] theorem transmit_txbusy (f : Bytes) (s : State) : (transmit f s).txbusy = true := (rfl)
@[simp] theorem transmit_fvalid (f : Bytes) (s : State) : (transmit f s).fvalid = s.fvalid := (rfl)
@[simp] theorem transmit_chksum (f : Bytes) (s : State) : (transmit f s).chksum = s.chksum := (rfl)
@[simp] theorem transmit_txdone (f : Bytes) (s : State) : (transmit f s).txdone = false := (rfl)
@[simp] theorem transmit_errIll (f : Bytes) (s : State) : (transmit f s).errIll = s.errIll := (rfl)
@[simp] theorem transmit_errState (f : Bytes) (s : State) : (transmit f s).errState = s.errState := (rfl)
@[simp] theorem transmit_seqwrap (f : Bytes) (s : State) : (transmit f s).seqwrap = s.seqwrap := (rfl)
@[simp] theorem transmit_ien (f : Bytes) (s : State) : (transmit f s).ien = s.ien := (rfl)
@[simp] theorem transmit_errcause (f : Bytes) (s : State) : (transmit f s).errcause = s.errcause := (rfl)
@[simp] theorem transmit_errcmd (f : Bytes) (s : State) : (transmit f s).errcmd = s.errcmd := (rfl)
@[simp] theorem transmit_rst (f : Bytes) (s : State) : (transmit f s).rst = s.rst := (rfl)
@[simp] theorem transmit_wire (f : Bytes) (s : State) : (transmit f s).wire = s.wire := (rfl)
@[simp] theorem transmit_rdata (f : Bytes) (s : State) : (transmit f s).rdata = s.rdata := (rfl)
@[simp] theorem transmit_inputs (f : Bytes) (s : State) : (transmit f s).inputs = s.inputs := (rfl)
@[simp] theorem transmit_tick (f : Bytes) (s : State) : (transmit f s).tick = s.tick := (rfl)

@[simp] theorem clearEvents_cfg (s : State) : (clearEvents s).cfg = s.cfg := (rfl)
@[simp] theorem clearEvents_seq (s : State) : (clearEvents s).seq = s.seq := (rfl)
@[simp] theorem clearEvents_streak (s : State) : (clearEvents s).streak = s.streak := (rfl)
@[simp] theorem clearEvents_cmdbuf (s : State) : (clearEvents s).cmdbuf = s.cmdbuf := (rfl)
@[simp] theorem clearEvents_cmdlen (s : State) : (clearEvents s).cmdlen = s.cmdlen := (rfl)
@[simp] theorem clearEvents_cmdtrunc (s : State) : (clearEvents s).cmdtrunc = s.cmdtrunc := (rfl)
@[simp] theorem clearEvents_frame (s : State) : (clearEvents s).frame = s.frame := (rfl)
@[simp] theorem clearEvents_framelen (s : State) : (clearEvents s).framelen = s.framelen := (rfl)
@[simp] theorem clearEvents_txptr (s : State) : (clearEvents s).txptr = s.txptr := (rfl)
@[simp] theorem clearEvents_txbusy (s : State) : (clearEvents s).txbusy = s.txbusy := (rfl)
@[simp] theorem clearEvents_fvalid (s : State) : (clearEvents s).fvalid = s.fvalid := (rfl)
@[simp] theorem clearEvents_chksum (s : State) : (clearEvents s).chksum = s.chksum := (rfl)
@[simp] theorem clearEvents_txdone (s : State) : (clearEvents s).txdone = false := (rfl)
@[simp] theorem clearEvents_errIll (s : State) : (clearEvents s).errIll = false := (rfl)
@[simp] theorem clearEvents_errState (s : State) : (clearEvents s).errState = false := (rfl)
@[simp] theorem clearEvents_seqwrap (s : State) : (clearEvents s).seqwrap = false := (rfl)
@[simp] theorem clearEvents_ien (s : State) : (clearEvents s).ien = s.ien := (rfl)
@[simp] theorem clearEvents_errcause (s : State) : (clearEvents s).errcause = 0 := (rfl)
@[simp] theorem clearEvents_errcmd (s : State) : (clearEvents s).errcmd = 0 := (rfl)
@[simp] theorem clearEvents_rst (s : State) : (clearEvents s).rst = s.rst := (rfl)
@[simp] theorem clearEvents_wire (s : State) : (clearEvents s).wire = s.wire := (rfl)
@[simp] theorem clearEvents_rdata (s : State) : (clearEvents s).rdata = s.rdata := (rfl)
@[simp] theorem clearEvents_inputs (s : State) : (clearEvents s).inputs = s.inputs := (rfl)
@[simp] theorem clearEvents_tick (s : State) : (clearEvents s).tick = s.tick := (rfl)

@[simp] theorem resetBlock_cfg (s : State) : (resetBlock s).cfg = s.cfg := (rfl)
@[simp] theorem resetBlock_seq (s : State) : (resetBlock s).seq = 1 := (rfl)
@[simp] theorem resetBlock_streak (s : State) : (resetBlock s).streak = 0 := (rfl)
@[simp] theorem resetBlock_cmdbuf (s : State) : (resetBlock s).cmdbuf = [] := (rfl)
@[simp] theorem resetBlock_cmdlen (s : State) : (resetBlock s).cmdlen = 0 := (rfl)
@[simp] theorem resetBlock_cmdtrunc (s : State) : (resetBlock s).cmdtrunc = false := (rfl)
@[simp] theorem resetBlock_frame (s : State) : (resetBlock s).frame = [] := (rfl)
@[simp] theorem resetBlock_framelen (s : State) : (resetBlock s).framelen = 0 := (rfl)
@[simp] theorem resetBlock_txptr (s : State) : (resetBlock s).txptr = 0 := (rfl)
@[simp] theorem resetBlock_txbusy (s : State) : (resetBlock s).txbusy = false := (rfl)
@[simp] theorem resetBlock_fvalid (s : State) : (resetBlock s).fvalid = false := (rfl)
@[simp] theorem resetBlock_chksum (s : State) : (resetBlock s).chksum = 0 := (rfl)
@[simp] theorem resetBlock_txdone (s : State) : (resetBlock s).txdone = false := (rfl)
@[simp] theorem resetBlock_errIll (s : State) : (resetBlock s).errIll = false := (rfl)
@[simp] theorem resetBlock_errState (s : State) : (resetBlock s).errState = false := (rfl)
@[simp] theorem resetBlock_seqwrap (s : State) : (resetBlock s).seqwrap = false := (rfl)
@[simp] theorem resetBlock_ien (s : State) : (resetBlock s).ien = 0 := (rfl)
@[simp] theorem resetBlock_errcause (s : State) : (resetBlock s).errcause = 0 := (rfl)
@[simp] theorem resetBlock_errcmd (s : State) : (resetBlock s).errcmd = 0 := (rfl)
@[simp] theorem resetBlock_rst (s : State) : (resetBlock s).rst = s.rst := (rfl)
@[simp] theorem resetBlock_wire (s : State) : (resetBlock s).wire = s.wire := (rfl)
@[simp] theorem resetBlock_rdata (s : State) : (resetBlock s).rdata = s.rdata := (rfl)
@[simp] theorem resetBlock_inputs (s : State) : (resetBlock s).inputs = s.inputs := (rfl)
@[simp] theorem resetBlock_tick (s : State) : (resetBlock s).tick = s.tick := (rfl)

@[simp] theorem emit_cfg (b : Byte) (s : State) : (emit b s).cfg = s.cfg := (rfl)
@[simp] theorem emit_seq (b : Byte) (s : State) : (emit b s).seq = s.seq := (rfl)
@[simp] theorem emit_streak (b : Byte) (s : State) : (emit b s).streak = s.streak := (rfl)
@[simp] theorem emit_cmdbuf (b : Byte) (s : State) : (emit b s).cmdbuf = s.cmdbuf := (rfl)
@[simp] theorem emit_cmdlen (b : Byte) (s : State) : (emit b s).cmdlen = s.cmdlen := (rfl)
@[simp] theorem emit_cmdtrunc (b : Byte) (s : State) : (emit b s).cmdtrunc = s.cmdtrunc := (rfl)
@[simp] theorem emit_frame (b : Byte) (s : State) : (emit b s).frame = s.frame := (rfl)
@[simp] theorem emit_framelen (b : Byte) (s : State) : (emit b s).framelen = s.framelen := (rfl)
@[simp] theorem emit_txptr (b : Byte) (s : State) : (emit b s).txptr = s.txptr := (rfl)
@[simp] theorem emit_txbusy (b : Byte) (s : State) : (emit b s).txbusy = s.txbusy := (rfl)
@[simp] theorem emit_fvalid (b : Byte) (s : State) : (emit b s).fvalid = s.fvalid := (rfl)
@[simp] theorem emit_chksum (b : Byte) (s : State) : (emit b s).chksum = s.chksum := (rfl)
@[simp] theorem emit_txdone (b : Byte) (s : State) : (emit b s).txdone = s.txdone := (rfl)
@[simp] theorem emit_errIll (b : Byte) (s : State) : (emit b s).errIll = s.errIll := (rfl)
@[simp] theorem emit_errState (b : Byte) (s : State) : (emit b s).errState = s.errState := (rfl)
@[simp] theorem emit_seqwrap (b : Byte) (s : State) : (emit b s).seqwrap = s.seqwrap := (rfl)
@[simp] theorem emit_ien (b : Byte) (s : State) : (emit b s).ien = s.ien := (rfl)
@[simp] theorem emit_errcause (b : Byte) (s : State) : (emit b s).errcause = s.errcause := (rfl)
@[simp] theorem emit_errcmd (b : Byte) (s : State) : (emit b s).errcmd = s.errcmd := (rfl)
@[simp] theorem emit_rst (b : Byte) (s : State) : (emit b s).rst = s.rst := (rfl)
@[simp] theorem emit_wire (b : Byte) (s : State) : (emit b s).wire = s.wire ++ [b] := (rfl)
@[simp] theorem emit_rdata (b : Byte) (s : State) : (emit b s).rdata = s.rdata := (rfl)
@[simp] theorem emit_inputs (b : Byte) (s : State) : (emit b s).inputs = s.inputs := (rfl)
@[simp] theorem emit_tick (b : Byte) (s : State) : (emit b s).tick = s.tick := (rfl)

@[simp] theorem advance_cfg (s : State) : (advance s).cfg = s.cfg := (rfl)
@[simp] theorem advance_seq (s : State) : (advance s).seq = s.seq := (rfl)
@[simp] theorem advance_streak (s : State) : (advance s).streak = s.streak := (rfl)
@[simp] theorem advance_cmdbuf (s : State) : (advance s).cmdbuf = s.cmdbuf := (rfl)
@[simp] theorem advance_cmdlen (s : State) : (advance s).cmdlen = s.cmdlen := (rfl)
@[simp] theorem advance_cmdtrunc (s : State) : (advance s).cmdtrunc = s.cmdtrunc := (rfl)
@[simp] theorem advance_frame (s : State) : (advance s).frame = s.frame := (rfl)
@[simp] theorem advance_framelen (s : State) : (advance s).framelen = s.framelen := (rfl)
@[simp] theorem advance_txptr (s : State) : (advance s).txptr = s.txptr := (rfl)
@[simp] theorem advance_txbusy (s : State) : (advance s).txbusy = s.txbusy := (rfl)
@[simp] theorem advance_fvalid (s : State) : (advance s).fvalid = s.fvalid := (rfl)
@[simp] theorem advance_chksum (s : State) : (advance s).chksum = s.chksum := (rfl)
@[simp] theorem advance_txdone (s : State) : (advance s).txdone = s.txdone := (rfl)
@[simp] theorem advance_errIll (s : State) : (advance s).errIll = s.errIll := (rfl)
@[simp] theorem advance_errState (s : State) : (advance s).errState = s.errState := (rfl)
@[simp] theorem advance_seqwrap (s : State) : (advance s).seqwrap = s.seqwrap := (rfl)
@[simp] theorem advance_ien (s : State) : (advance s).ien = s.ien := (rfl)
@[simp] theorem advance_errcause (s : State) : (advance s).errcause = s.errcause := (rfl)
@[simp] theorem advance_errcmd (s : State) : (advance s).errcmd = s.errcmd := (rfl)
@[simp] theorem advance_rst (s : State) : (advance s).rst = s.rst := (rfl)
@[simp] theorem advance_wire (s : State) : (advance s).wire = s.wire := (rfl)
@[simp] theorem advance_rdata (s : State) : (advance s).rdata = s.rdata := (rfl)
@[simp] theorem advance_inputs (s : State) : (advance s).inputs = s.inputs.tail := (rfl)
@[simp] theorem advance_tick (s : State) : (advance s).tick = s.tick + 1 := (rfl)

end Sys2Proof.Machine
end

