-- ==== Sys2Proof/Laws/Ops.lean ====
section
/-! SUPPORT. What each shared operation can do, said once: later proofs cite these and unfold nothing. -/

namespace Sys2Proof.Machine

/-- A guarded command always answers a next state: its effect when no check applies, else the refusal with the first cause. -/
theorem guarded_cases (checks : List (Bool × Cause)) (w : Word) (effect s : State) :
    (firstCause checks = none ∧ guarded checks w effect s = .next effect) ∨
      ∃ c, firstCause checks = some c ∧ guarded checks w effect s = .next (refuse c w s) := by
  unfold guarded
  cases h : firstCause checks with
  | none => exact .inl ⟨rfl, rfl⟩
  | some c => exact .inr ⟨c, rfl, rfl⟩

@[simp] theorem firstCause_nil : firstCause [] = none := rfl
@[simp] theorem firstCause_true (c : Cause) (l : List (Bool × Cause)) : firstCause ((true, c) :: l) = some c := rfl
@[simp] theorem firstCause_false (c : Cause) (l : List (Bool × Cause)) : firstCause ((false, c) :: l) = firstCause l := rfl

/-- No cause applies exactly when every condition is false. -/
theorem firstCause_none_iff (l : List (Bool × Cause)) : firstCause l = none ↔ ∀ p ∈ l, p.1 = false := by
  induction l with
  | nil => simp
  | cons p l ih =>
    obtain ⟨b, c⟩ := p
    cases b <;> simp [ih]

/-- A read completes with its word and changes nothing else. -/
theorem returnWord_next (v : Word) (s : State) : returnWord v s = .next { s with rdata := some v } := rfl

/-- The step at a schedule with an event: the agent's step on the state with that event consumed. -/
theorem step_cons {s : State} {e : Input} {rest : List Input} (h : s.inputs = e :: rest) :
    step s = agentStep e (advance s) := by
  unfold step; rw [h]

/-- The step at an empty schedule: the block waits. -/
theorem step_nil {s : State} (h : s.inputs = []) : step s = .next (advance s) := by
  unfold step; rw [h]

/-- All a step that answers a next state can be: a wait, a host access outside the window, a host access that
runs its instruction, an offer of the sink, an assertion of rst, or its release. -/
theorem step_next_cases {s t : State} (h : step s = .next t) :
    (s.inputs = [] ∧ t = advance s) ∨
    (∃ a rest, s.inputs = .host a :: rest ∧ s.rst = false ∧ decodeAccess s.cfg.base a = .error .outside ∧ t = advance s) ∨
    (∃ a rest i, s.inputs = .host a :: rest ∧ s.rst = false ∧ decodeAccess s.cfg.base a = .ok i ∧
      exec i (advance s) = .next t) ∨
    (∃ rest, s.inputs = .sinkReady :: rest ∧ t = sinkReady (advance s)) ∨
    (∃ rest, s.inputs = .rst true :: rest ∧ t = assertReset (advance s)) ∨
    (∃ rest, s.inputs = .rst false :: rest ∧ t = releaseReset (advance s)) := by
  cases hi : s.inputs with
  | nil =>
    rw [step_nil hi] at h
    injection h with h
    exact .inl ⟨rfl, h.symm⟩
  | cons e rest =>
    rw [step_cons hi] at h
    cases e with
    | host a =>
      simp only [agentStep, hostAccess, advance_rst, advance_cfg] at h
      split at h
      · cases h
      · rename_i hr
        have hr : s.rst = false := by simpa using hr
        split at h
        · rename_i i hd
          exact .inr (.inr (.inl ⟨a, rest, i, rfl, hr, hd, h⟩))
        · rename_i hd
          injection h with h
          exact .inr (.inl ⟨a, rest, rfl, hr, hd, h.symm⟩)
        all_goals cases h
    | otherHost a => cases h
    | sinkReady =>
      injection h with h
      exact .inr (.inr (.inr (.inl ⟨rest, rfl, h.symm⟩)))
    | rst level =>
      cases level <;> (injection h with h)
      · exact .inr (.inr (.inr (.inr (.inr ⟨rest, rfl, h.symm⟩))))
      · exact .inr (.inr (.inr (.inr (.inl ⟨rest, rfl, h.symm⟩))))

theorem run_zero (s : State) : run 0 s = .next s := rfl

/-- A run whose first step is known goes on from there. -/
theorem run_succ_of_next {k : Nat} {s t : State} (h : step s = .next t) : run (k + 1) s = run k t := by
  rw [run, h]

/-- A run of `k` steps that answers a next state may be followed by another run. -/
theorem run_add_of_next {j k : Nat} {s t : State} (h : run j s = .next t) : run (j + k) s = run k t := by
  induction j generalizing s with
  | zero =>
    rw [run_zero] at h
    injection h with h
    rw [Nat.zero_add, h]
  | succ j ih =>
    rw [Nat.succ_add, run]
    rw [run] at h
    cases hs : step s with
    | next u =>
      rw [hs] at h
      exact ih h
    | fault r => rw [hs] at h; cases h
    | refused r => rw [hs] at h; cases h

/-- One step of the host's own run of any machine. -/
theorem core_run_succ_of_next (M : Host.Core) {k : Nat} {s t : M.State} (h : M.step s = .next t) :
    Host.Core.run M (k + 1) s = Host.Core.run M k t := by
  rw [Host.Core.run, h]

/-- `run` is the host's own run of the machine, as long as it goes on. -/
theorem core_run_of_run_next {k : Nat} {s t : State} (h : run k s = .next t) :
    Host.Core.run Sys2Proof.core k s = .next t := by
  induction k generalizing s with
  | zero => exact h
  | succ k ih =>
    rw [run] at h
    cases hs : step s with
    | next u =>
      rw [hs] at h
      exact (core_run_succ_of_next Sys2Proof.core (s := s) (t := u) hs).trans (ih h)
    | fault r => rw [hs] at h; cases h
    | refused r => rw [hs] at h; cases h

/-- A transfer: the byte at TXPTR goes to the wire, TXPTR moves on, and the last byte ends the transmission (R171). -/
theorem txTransfer_eq (s : State) :
    txTransfer s =
      { s with
        wire := s.wire ++ [Memory.read s.frame s.txptr.toNat]
        txptr := s.txptr + 1
        txbusy := if s.txptr + 1 = s.framelen then false else s.txbusy
        txdone := if s.txptr + 1 = s.framelen then true else s.txdone } := by
  unfold txTransfer emit
  split <;> rfl

/-- The reset values leave a block that already has them alone. -/
theorem resetBlock_reset : resetBlock State.reset = State.reset := rfl

end Sys2Proof.Machine
end

