-- ==== Sys2Proof/Laws/Commands.lean ====
section
/-! SUPPORT. What each command and each instruction can do, said once (40_frame_encoder.md, 41_sequence_resend.md,
42_control.md): the effect its rule names, under the conditions its rule names, or a refusal. -/

namespace Sys2Proof.Machine

/-- RSTREQ as a fact about STREAK (R24). -/
theorem rstreq_iff (s : State) : rstreq s = true ↔ s.streak = 3 := by
  unfold rstreq rsThresh
  exact beq_iff_eq

theorem rstreq_false_iff (s : State) : rstreq s = false ↔ s.streak ≠ 3 := by
  rw [← Bool.not_eq_true, rstreq_iff]

/-- RSTREQ depends on STREAK alone. -/
theorem rstreq_congr {s t : State} (h : s.streak = t.streak) : rstreq s = rstreq t := by
  unfold rstreq
  rw [h]

/-- Bit `j` of a flag placed at bit `k`. -/
theorem flagBit_getLsbD (b : Bool) (k j : Nat) (hk : k < 32) : (flagBit b k).getLsbD j = (decide (j = k) && b) := by
  unfold flagBit
  rw [BitVec.getLsbD_shiftLeft]
  by_cases h : j = k
  · subst h; cases b <;> simp [hk]
  · by_cases h2 : j < k
    · simp [h2, h]
    · cases b <;> simp [h]
      omega

/-- A command none of whose checks applies has its effect. -/
theorem guarded_of_unchecked {l : List (Bool × Cause)} {w : Word} {e s : State} (h : ∀ p ∈ l, p.1 = false) :
    guarded l w e s = .next e := by
  unfold guarded
  rw [(firstCause_none_iff l).2 h]

/-- A guarded command that answers `t`: a refusal, or the effect with every check passed. -/
theorem of_guarded_next {l : List (Bool × Cause)} {w : Word} {e s t : State} (h : guarded l w e s = .next t) :
    (∃ k, t = refuse k w s) ∨ ((∀ p ∈ l, p.1 = false) ∧ t = e) := by
  rcases guarded_cases l w e s with ⟨h1, h2⟩ | ⟨k, -, h2⟩
  · rw [h2] at h
    injection h with h
    exact .inr ⟨(firstCause_none_iff l).1 h1, h.symm⟩
  · rw [h2] at h
    injection h with h
    exact .inl ⟨k, h.symm⟩

/-- All a command can do: be refused, or have the effect of its rule under the conditions of its rule. -/
theorem command_next_cases {c : Command} {s t : State} (h : exec c.toInstr s = .next t) :
    (∃ k w, t = refuse k w s) ∨
    match c with
    | .nop => t = s
    | .init => t = { resetBlock s with ien := s.ien }
    | .clr => t = { s with cmdlen := 0, cmdtrunc := false }
    | .push b =>
      (s.cmdlen.toNat < s.cfg.cmdMax ∧
        t = { s with cmdbuf := Memory.write s.cmdbuf s.cmdlen.toNat b, cmdlen := s.cmdlen + 1 }) ∨
      (¬ s.cmdlen.toNat < s.cfg.cmdMax ∧ t = { s with cmdtrunc := true })
    | .encode => s.txbusy = false ∧ s.streak ≠ 3 ∧ s.cmdtrunc = false ∧ t = encodeEffect s
    | .ack => s.txbusy = false ∧ s.streak ≠ 3 ∧ s.fvalid = true ∧ t = ackEffect s
    | .resend => s.txbusy = false ∧ s.streak ≠ 3 ∧ s.fvalid = true ∧ t = resendEffect s
    | .erst => s.txbusy = false ∧ t = erstEffect s
    | .clrev => t = clearEvents s
    | .raw => s.txbusy = false ∧ s.cmdtrunc = false ∧ t = rawEffect s := by
  cases c
  case nop => injection h with h; exact .inr h.symm
  case init => injection h with h; exact .inr h.symm
  case clr => injection h with h; exact .inr h.symm
  case push b =>
    simp only [Command.toInstr, exec, execPush] at h
    split at h <;> (injection h with h)
    · exact .inr (.inl ⟨‹_›, h.symm⟩)
    · exact .inr (.inr ⟨‹_›, h.symm⟩)
  case encode =>
    rcases of_guarded_next h with ⟨k, h⟩ | ⟨h1, h2⟩
    · exact .inl ⟨k, _, h⟩
    · simp [encodeChecks] at h1
      exact .inr ⟨h1.1, (rstreq_false_iff s).1 h1.2.1, h1.2.2, h2⟩
  case ack =>
    rcases of_guarded_next h with ⟨k, h⟩ | ⟨h1, h2⟩
    · exact .inl ⟨k, _, h⟩
    · simp [verdictChecks] at h1
      exact .inr ⟨h1.1, (rstreq_false_iff s).1 h1.2.1, h1.2.2, h2⟩
  case resend =>
    rcases of_guarded_next h with ⟨k, h⟩ | ⟨h1, h2⟩
    · exact .inl ⟨k, _, h⟩
    · simp [verdictChecks] at h1
      exact .inr ⟨h1.1, (rstreq_false_iff s).1 h1.2.1, h1.2.2, h2⟩
  case erst =>
    rcases of_guarded_next h with ⟨k, h⟩ | ⟨h1, h2⟩
    · exact .inl ⟨k, _, h⟩
    · simp at h1
      exact .inr ⟨h1, h2⟩
  case clrev => injection h with h; exact .inr h.symm
  case raw =>
    rcases of_guarded_next h with ⟨k, h⟩ | ⟨h1, h2⟩
    · exact .inl ⟨k, _, h⟩
    · simp [rawChecks] at h1
      exact .inr ⟨h1.1, h1.2, h2⟩

/-- RESEND counts, and at most starts the frame again. -/
theorem resendEffect_cases (s : State) :
    resendEffect s = { s with streak := s.streak + 1 } ∨ resendEffect s = replay { s with streak := s.streak + 1 } := by
  unfold resendEffect
  split
  · exact .inr rfl
  · exact .inl rfl

/-- A guarded command answers a next state. -/
theorem guarded_answers (l : List (Bool × Cause)) (w : Word) (e s : State) : ∃ t, guarded l w e s = .next t := by
  rcases guarded_cases l w e s with h | ⟨_, h⟩
  · exact ⟨_, h.2⟩
  · exact ⟨_, h.2⟩

/-- A command's events in two parts. -/
theorem commandEvents_append (base : Nat) (x y : List Command) :
    commandEvents base (x ++ y) = commandEvents base x ++ commandEvents base y := by
  simp [commandEvents]

end Sys2Proof.Machine
end

