-- ==== Sys2Proof/Laws/PerInstr.lean ====
section
/-! SUPPORT. A fact about every instruction as syntax, one lemma per constructor: the access that carries it is one the
block defines, and the word of a command is a legal command word (R53, R54, R72, R76). -/

namespace Sys2Proof.Laws

/-- The access of the instruction passes `Access.wf`, and a command's word passes `legalWord`. -/
def CarriedByDefinedAccess.Statement (i : Instr) : Prop :=
  ∀ base, (encode base i).wf base = true ∧ (i.command?.isSome = true → legalWord (encode base i).data = true)

theorem readAccess_wf (base : Nat) (r : Reg) (h : readableOffsets.contains r.offset = true) :
    (readAccess base r).wf base = true := by
  cases r <;> simp_all [readAccess, Access.wf, Access.inWindow, Reg.offset, readableOffsets]

theorem writeAccess_wf (base : Nat) (r : Reg) (v : Word) (h : writableOffsets.contains r.offset = true) :
    (writeAccess base r v).wf base = true := by
  cases r <;> simp_all [writeAccess, Access.wf, Access.inWindow, Reg.offset, writableOffsets]

theorem legalWord_encodeCommand (c : Command) : legalWord (encodeCommand c) = true := by
  cases c with
  | push b => revert b; decide
  | _ => decide

theorem CarriedByDefinedAccess.nop : CarriedByDefinedAccess.Statement .nop :=
  fun _ => ⟨writeAccess_wf _ _ _ rfl, fun _ => legalWord_encodeCommand .nop⟩
theorem CarriedByDefinedAccess.init : CarriedByDefinedAccess.Statement .init :=
  fun _ => ⟨writeAccess_wf _ _ _ rfl, fun _ => legalWord_encodeCommand .init⟩
theorem CarriedByDefinedAccess.clr : CarriedByDefinedAccess.Statement .clr :=
  fun _ => ⟨writeAccess_wf _ _ _ rfl, fun _ => legalWord_encodeCommand .clr⟩
theorem CarriedByDefinedAccess.push (b : Byte) : CarriedByDefinedAccess.Statement (.push b) :=
  fun _ => ⟨writeAccess_wf _ _ _ rfl, fun _ => legalWord_encodeCommand (.push b)⟩
theorem CarriedByDefinedAccess.encode : CarriedByDefinedAccess.Statement .encode :=
  fun _ => ⟨writeAccess_wf _ _ _ rfl, fun _ => legalWord_encodeCommand .encode⟩
theorem CarriedByDefinedAccess.ack : CarriedByDefinedAccess.Statement .ack :=
  fun _ => ⟨writeAccess_wf _ _ _ rfl, fun _ => legalWord_encodeCommand .ack⟩
theorem CarriedByDefinedAccess.resend : CarriedByDefinedAccess.Statement .resend :=
  fun _ => ⟨writeAccess_wf _ _ _ rfl, fun _ => legalWord_encodeCommand .resend⟩
theorem CarriedByDefinedAccess.erst : CarriedByDefinedAccess.Statement .erst :=
  fun _ => ⟨writeAccess_wf _ _ _ rfl, fun _ => legalWord_encodeCommand .erst⟩
theorem CarriedByDefinedAccess.clrev : CarriedByDefinedAccess.Statement .clrev :=
  fun _ => ⟨writeAccess_wf _ _ _ rfl, fun _ => legalWord_encodeCommand .clrev⟩
theorem CarriedByDefinedAccess.raw : CarriedByDefinedAccess.Statement .raw :=
  fun _ => ⟨writeAccess_wf _ _ _ rfl, fun _ => legalWord_encodeCommand .raw⟩
theorem CarriedByDefinedAccess.wrCmd (w : Word) : CarriedByDefinedAccess.Statement (.wrCmd w) :=
  fun _ => ⟨writeAccess_wf _ _ _ rfl, fun h => by cases h⟩
theorem CarriedByDefinedAccess.rdStatus : CarriedByDefinedAccess.Statement .rdStatus :=
  fun _ => ⟨readAccess_wf _ _ rfl, fun h => by cases h⟩
theorem CarriedByDefinedAccess.rdSeq : CarriedByDefinedAccess.Statement .rdSeq :=
  fun _ => ⟨readAccess_wf _ _ rfl, fun h => by cases h⟩
theorem CarriedByDefinedAccess.rdStreak : CarriedByDefinedAccess.Statement .rdStreak :=
  fun _ => ⟨readAccess_wf _ _ rfl, fun h => by cases h⟩
theorem CarriedByDefinedAccess.rdChksum : CarriedByDefinedAccess.Statement .rdChksum :=
  fun _ => ⟨readAccess_wf _ _ rfl, fun h => by cases h⟩
theorem CarriedByDefinedAccess.rdCmdlen : CarriedByDefinedAccess.Statement .rdCmdlen :=
  fun _ => ⟨readAccess_wf _ _ rfl, fun h => by cases h⟩
theorem CarriedByDefinedAccess.rdFramelen : CarriedByDefinedAccess.Statement .rdFramelen :=
  fun _ => ⟨readAccess_wf _ _ rfl, fun h => by cases h⟩
theorem CarriedByDefinedAccess.rdTxptr : CarriedByDefinedAccess.Statement .rdTxptr :=
  fun _ => ⟨readAccess_wf _ _ rfl, fun h => by cases h⟩
theorem CarriedByDefinedAccess.rdIen : CarriedByDefinedAccess.Statement .rdIen :=
  fun _ => ⟨readAccess_wf _ _ rfl, fun h => by cases h⟩
theorem CarriedByDefinedAccess.rdErrcause : CarriedByDefinedAccess.Statement .rdErrcause :=
  fun _ => ⟨readAccess_wf _ _ rfl, fun h => by cases h⟩
theorem CarriedByDefinedAccess.rdErrcmd : CarriedByDefinedAccess.Statement .rdErrcmd :=
  fun _ => ⟨readAccess_wf _ _ rfl, fun h => by cases h⟩
theorem CarriedByDefinedAccess.rdId : CarriedByDefinedAccess.Statement .rdId :=
  fun _ => ⟨readAccess_wf _ _ rfl, fun h => by cases h⟩
theorem CarriedByDefinedAccess.wrIen (v : Word) : CarriedByDefinedAccess.Statement (.wrIen v) :=
  fun _ => ⟨writeAccess_wf _ _ _ rfl, fun h => by cases h⟩

end Sys2Proof.Laws
end

