-- ==== Sys2Proof/Tests/Slice0.lean ====
section
/-! SUPPORT. Tests: the ill-formed terms each check refuses, the decoding of words written out from the spec's encodings,
one or two steps per instruction with the results of spec/95_test_vectors.md, and a witness for the hypotheses of every
statement in Certificates/Slice0/Obligations.lean. -/

namespace Sys2Proof.Tests

open Sys2Proof Sys2Proof.Machine

/-! ## Helpers -/

/-- What a step answers, if it answers a next state. -/
def after (o : Host.Outcome State Fault Refusal) : Option State :=
  match o with
  | .next t => some t
  | .fault _ => none
  | .refused _ => none

/-- One aligned word access of the host, with the window at 0. -/
def busRead (offset : Nat) : Access := { dir := .read, addr := offset, size := 4, data := 0 }

def busWrite (offset : Nat) (v : Word) : Access := { dir := .write, addr := offset, size := 4, data := v }

/-- A schedule in front of a state. -/
def withInputs (es : List Input) (s : State) : State := { s with inputs := es }

/-- The command G28. -/
def g28 : Bytes := [0x47, 0x32, 0x38]

/-- The frame of V-F1, written out from the vector: N1 G28*18 and LF. -/
def frameF1 : Bytes := [0x4E, 0x31, 0x20, 0x47, 0x32, 0x38, 0x2A, 0x31, 0x38, 0x0A]

/-- Reset, with G28 in the command buffer. -/
def ready : State :=
  { State.reset with cmdbuf := [(0, 0x47), (1, 0x32), (2, 0x38)], cmdlen := 3 }

/-- The result of V-E1: G28's frame is loaded and its transmission has started. -/
def sending : State :=
  { ready with
    frame := [(0, 0x4E), (1, 0x31), (2, 0x20), (3, 0x47), (4, 0x32), (5, 0x38), (6, 0x2A), (7, 0x31), (8, 0x38), (9, 0x0A)]
    framelen := 10, txbusy := true, fvalid := true, chksum := 0x12 }

/-- The common start of V-A and V-S: the frame is sent and held for a verdict. -/
def held : State := { sending with txptr := 10, txbusy := false }

/-! ## Well-formedness -/

theorem test_config_refuses_no_buffer : ({ Config.default with cmdMax := 0 }).wf = false := by decide
theorem test_config_refuses_too_long : ({ Config.default with cmdMax := 65519 }).wf = false := by decide
theorem test_config_refuses_unaligned_base : ({ Config.default with base := 32 }).wf = false := by decide
theorem test_config_admits_default : Config.default.wf = true := by decide
theorem test_word_refuses_reserved_opcode : legalWord 0x0000000A = false := by decide
theorem test_word_refuses_reserved_bits : legalWord 0x00000104 = false ∧ legalWord 0x80000005 = false := by decide
theorem test_access_refuses_outside : (busRead 0x40).wf 0 = false ∧ (busRead 0x04).wf 0x40 = false := by decide
theorem test_access_refuses_byte : ({ busRead 0x04 with size := 1 }).wf 0 = false := by decide
theorem test_access_refuses_misaligned : (busRead 0x06).wf 0 = false := by decide
theorem test_access_refuses_read_of_cmd : (busRead 0x00).wf 0 = false := by decide
theorem test_access_refuses_write_of_seq : (busWrite 0x08 5).wf 0 = false := by decide
theorem test_access_refuses_reserved_offset : (busRead 0x30).wf 0 = false ∧ (busWrite 0x3C 0).wf 0 = false := by decide

/-! ## Decoding: words and accesses written out from R70, R72, R78 and R79 -/

theorem test_decode_nop : decodeTableWord 32 0b00000000000000000000000000000000 = some .nop := by decide
theorem test_decode_init : decodeTableWord 32 0b00000000000000000000000000000001 = some .init := by decide
theorem test_decode_clr : decodeTableWord 32 0b00000000000000000000000000000010 = some .clr := by decide
theorem test_decode_push : decodeTableWord 32 0b00000000000000000100011100000011 = some (.push 0x47) := by decide
theorem test_decode_encode : decodeTableWord 32 0b00000000000000000000000000000100 = some .encode := by decide
theorem test_decode_ack : decodeTableWord 32 0b00000000000000000000000000000101 = some .ack := by decide
theorem test_decode_resend : decodeTableWord 32 0b00000000000000000000000000000110 = some .resend := by decide
theorem test_decode_erst : decodeTableWord 32 0b00000000000000000000000000000111 = some .erst := by decide
theorem test_decode_clrev : decodeTableWord 32 0b00000000000000000000000000001000 = some .clrev := by decide
theorem test_decode_raw : decodeTableWord 32 0b00000000000000000000000000001001 = some .raw := by decide
theorem test_decode_push_ff : decodeCommand 0x0000FF03 = .ok (.push 0xFF) := by decide

/-- V-K1 to V-K5, V-P4 and V-N2: ILL_OP goes before ILL_RSVD. -/
theorem test_decode_illegal_words :
    decodeCommand 0x0000000A = .error .illOp ∧ decodeCommand 0x0000000F = .error .illOp ∧
    decodeCommand 0x0001000A = .error .illOp ∧ decodeCommand 0x00000104 = .error .illRsvd ∧
    decodeCommand 0x80000005 = .error .illRsvd ∧ decodeCommand 0x00010003 = .error .illRsvd ∧
    decodeCommand 0x000000F0 = .error .illRsvd := by decide

theorem test_decode_wr_cmd : decodeAccess 0 (busWrite 0b000000 0x04) = .ok (.wrCmd 0x04) := by decide
theorem test_decode_rd_status : decodeAccess 0 (busRead 0b000100) = .ok .rdStatus := by decide
theorem test_decode_rd_seq : decodeAccess 0 (busRead 0b001000) = .ok .rdSeq := by decide
theorem test_decode_rd_streak : decodeAccess 0 (busRead 0b001100) = .ok .rdStreak := by decide
theorem test_decode_rd_chksum : decodeAccess 0 (busRead 0b010000) = .ok .rdChksum := by decide
theorem test_decode_rd_cmdlen : decodeAccess 0 (busRead 0b010100) = .ok .rdCmdlen := by decide
theorem test_decode_rd_framelen : decodeAccess 0 (busRead 0b011000) = .ok .rdFramelen := by decide
theorem test_decode_rd_txptr : decodeAccess 0 (busRead 0b011100) = .ok .rdTxptr := by decide
theorem test_decode_rd_ien : decodeAccess 0 (busRead 0b100000) = .ok .rdIen := by decide
theorem test_decode_rd_errcause : decodeAccess 0 (busRead 0b100100) = .ok .rdErrcause := by decide
theorem test_decode_rd_errcmd : decodeAccess 0 (busRead 0b101000) = .ok .rdErrcmd := by decide
theorem test_decode_rd_id : decodeAccess 0 (busRead 0b101100) = .ok .rdId := by decide
theorem test_decode_wr_ien : decodeAccess 0 (busWrite 0b100000 0xF4) = .ok (.wrIen 0xF4) := by decide
theorem test_decode_table_offset : decodeTableWord 8 0x2C = some .rdId ∧ decodeTableWord 8 0x30 = none := by decide

/-! ## The pure functions -/

/-- V-X1 to V-X4. -/
theorem test_xorfold :
    xorfold [] = 0 ∧ xorfold g28 = 0x4D ∧ xorfold [0x4E, 0x31, 0x20, 0x47, 0x32, 0x38] = 0x12 ∧
    xorfold [0x38, 0x32, 0x47, 0x20, 0x31, 0x4E] = 0x12 := by decide

/-- V-D1, V-D3, V-D4. -/
theorem test_dec : dec 0 = [0x30] ∧ dec 10 = [0x31, 0x30] ∧ dec 255 = [0x32, 0x35, 0x35] := by decide

/-- V-D5. -/
theorem test_dec_largest :
    dec 4294967295 = [0x34, 0x32, 0x39, 0x34, 0x39, 0x36, 0x37, 0x32, 0x39, 0x35] := by decide

/-- V-F1, V-F4. -/
theorem test_frame_g28 : frameBytes 1 g28 = frameF1 := by decide
theorem test_frame_empty : frameBytes 1 [] = [0x4E, 0x31, 0x20, 0x2A, 0x39, 0x35, 0x0A] := by decide

/-- V-F6: a checksum of 0 is one digit. -/
theorem test_frame_zero_checksum : frameBytes 1 [0x5F] = [0x4E, 0x31, 0x20, 0x5F, 0x2A, 0x30, 0x0A] := by decide

/-- V-F7: the largest checksum. -/
theorem test_frame_largest_checksum :
    frameBytes 1 [0xA0] = [0x4E, 0x31, 0x20, 0xA0, 0x2A, 0x32, 0x35, 0x35, 0x0A] := by decide

/-! ## Commands -/

/-- V-N1. -/
theorem test_nop : after (exec .nop sending) = some sending := by decide

/-- V-I1, the registers. -/
theorem test_init :
    (after (exec .init { sending with seq := 42, streak := 2, ien := 0x10, txptr := 4 })).map
      (fun t => (t.seq, t.streak, t.framelen, t.txptr, statusWord t)) = some (1, 0, 0, 0, 0) := by decide

/-- V-I1, what INIT keeps: IEN, and the four bytes already sent. -/
theorem test_init_keeps :
    (after (exec .init { sending with ien := 0x10, txptr := 4, wire := [0x4E, 0x31, 0x20, 0x47] })).map
      (fun t => (t.ien, t.wire)) = some (0x10, [0x4E, 0x31, 0x20, 0x47]) := by decide

/-- V-C1. -/
theorem test_clr :
    (after (exec .clr { ready with cmdtrunc := true })).map (fun t => (t.cmdlen, t.cmdtrunc)) = some (0, false) := by decide

/-- V-C2: allowed while a frame is being sent, and FRAME stays. -/
theorem test_clr_while_sending :
    (after (exec .clr sending)).map (fun t => (t.cmdlen, t.txbusy, t.frame)) = some (0, true, sending.frame) := by decide

/-- V-P1. -/
theorem test_push :
    (after (exec (.push 0x47) State.reset)).map (fun t => (t.cmdlen, Memory.read t.cmdbuf 0)) = some (1, 0x47) := by decide

/-- V-P2: a full buffer drops the byte, sets CMDTRUNC and is no refusal. -/
theorem test_push_full :
    (after (exec (.push 0x58) { ready with cmdlen := 4, cfg := { Config.default with cmdMax := 4 } })).map
      (fun t => (t.cmdlen, t.cmdtrunc, t.errIll, t.errState)) = some (4, true, false, false) := by decide

/-- V-E1. -/
theorem test_encode : after (exec .encode ready) = some sending ∧ statusWord sending = 0x00000003 := by decide

/-- V-E5: BUSY wins over RSTPEND and TRUNC. -/
theorem test_encode_busy :
    (after (exec .encode { sending with streak := 3, cmdtrunc := true })).map
      (fun t => (t.errcause, t.errcmd, t.errState, t.errIll)) = some (3, 0x00000004, true, false) := by decide

/-- V-A1. -/
theorem test_ack :
    (after (exec .ack held)).map (fun t => (t.seq, t.streak, t.fvalid, t.seqwrap)) = some (2, 0, false, false) := by decide

/-- V-A7. -/
theorem test_ack_wraps :
    (after (exec .ack { held with seq := 0xFFFFFFFF })).map (fun t => (t.seq, t.seqwrap)) = some (0, true) := by decide

/-- V-S1. -/
theorem test_resend :
    (after (exec .resend { held with txdone := true })).map (fun t => (t.streak, t.txptr, t.txbusy, t.txdone)) =
    some (1, 0, true, false) := by decide

/-- V-S3: the third RESEND sends nothing. -/
theorem test_resend_third :
    (after (exec .resend { held with streak := 2 })).map (fun t => (t.streak, t.txbusy, statusWord t)) =
    some (3, false, 0x00000006) := by decide

/-- V-T1. -/
theorem test_erst :
    (after (exec .erst { held with seq := 7, streak := 3 })).map (fun t => (t.seq, t.streak, t.fvalid, t.cmdlen)) =
    some (1, 0, false, 3) := by decide

/-- V-T2. -/
theorem test_erst_busy :
    (after (exec .erst { sending with seq := 7 })).map (fun t => (t.seq, t.errcause, t.errcmd)) = some (7, 3, 7) := by decide

/-- V-V1. -/
theorem test_clrev :
    (after (exec .clrev { sending with fvalid := false, errIll := true, errState := true, errcause := 2, errcmd := 0xF0 })).map
      (fun t => (statusWord t, t.errcause, t.errcmd)) = some (0x00000001, 0, 0) := by decide

/-- V-V2: RSTREQ and irq stay. -/
theorem test_clrev_keeps_rstreq :
    (after (exec .clrev { held with streak := 3, ien := 0x04 })).map (fun t => (rstreq t, irq t)) = some (true, true) := by decide

/-- V-R1, on the command buffer G28: the bytes and LF; CHKSUM stays. -/
theorem test_raw :
    (after (exec .raw { ready with chksum := 0x65 })).map
      (fun t => (loadedFrame t, t.framelen, t.fvalid, t.txbusy, t.chksum)) =
    some ([0x47, 0x32, 0x38, 0x0A], 4, false, true, 0x65) := by decide

/-- V-R2 and V-R3 together: an empty buffer sends LF alone, and STREAK = 3 is no obstacle. -/
theorem test_raw_empty :
    (after (exec .raw { State.reset with streak := 3 })).map (fun t => (loadedFrame t, t.framelen, t.txbusy)) =
    some ([0x0A], 1, true) := by decide

/-- V-Q2: the first recorded refusal stays. -/
theorem test_refusal_keeps_the_first :
    (after (exec (.wrCmd 0x0000000B) { held with errState := true, errcause := 5, errcmd := 5 })).map
      (fun t => (t.errIll, t.errcause, t.errcmd)) = some (true, 5, 5) := by decide

/-- V-Q1: BUSY goes before RSTPEND and NOFRAME. -/
theorem test_refusal_priority :
    (after (exec (.wrCmd 0x00000005) { sending with streak := 3, fvalid := false })).map
      (fun t => (t.errState, t.errcause, t.errcmd)) = some (true, 3, 5) := by decide

/-! ## Bus accesses -/

/-- What a read of the register at `offset` returns. -/
def readBack (offset : Nat) (s : State) : Option Word :=
  match after (step (withInputs [.host (busRead offset)] s)) with
  | some t => t.rdata
  | none => none

/-- V-B1, and P3's rd STATUS -> 0x168. -/
theorem test_rd_status :
    readBack 0x04 State.reset = some 0 ∧
    readBack 0x04 { State.reset with cmdtrunc := true, errIll := true, errState := true, ien := 0xF4 } = some 0x00000168 := by
  decide

/-- V-B2. -/
theorem test_rd_seq : readBack 0x08 State.reset = some 0x00000001 := by decide
theorem test_rd_streak : readBack 0x0C { held with streak := 3 } = some 0x00000003 := by decide
theorem test_rd_chksum : readBack 0x10 sending = some 0x00000012 := by decide
theorem test_rd_cmdlen : readBack 0x14 sending = some 0x00000003 := by decide
theorem test_rd_framelen : readBack 0x18 sending = some 0x0000000A := by decide
theorem test_rd_txptr : readBack 0x1C held = some 0x0000000A := by decide
theorem test_rd_ien : readBack 0x20 { State.reset with ien := 0xF4 } = some 0x000000F4 := by decide
theorem test_rd_errcause : readBack 0x24 { State.reset with errIll := true, errcause := 1, errcmd := 0xA } = some 1 := by decide
theorem test_rd_errcmd : readBack 0x28 { State.reset with errIll := true, errcause := 1, errcmd := 0xA } = some 0xA := by decide

/-- V-B3. -/
theorem test_rd_id : readBack 0x2C State.reset = some 0x01030080 := by decide

/-- V-B4. -/
theorem test_wr_ien :
    (after (step (withInputs [.host (busWrite 0x20 0xFFFFFFFF)] State.reset))).map State.ien = some 0x000000F4 := by decide

/-- A wr CMD through the step: PUSH 'G' (R79). -/
theorem test_wr_cmd :
    (after (step (withInputs [.host (busWrite 0x00 0x00004703)] State.reset))).map commandBytes = some [0x47] := by decide

/-- V-B5 to V-B9: bus errors, with the address of the access. -/
theorem test_bus_errors :
    step (withInputs [.host (busRead 0x00)] held) = .fault (.busError 0x00) ∧
    step (withInputs [.host (busWrite 0x08 5)] held) = .fault (.busError 0x08) ∧
    step (withInputs [.host { busRead 0x04 with size := 1 }] held) = .fault (.busError 0x04) ∧
    step (withInputs [.host (busRead 0x30)] held) = .fault (.busError 0x30) ∧
    step (withInputs [.host (busRead 0x06)] held) = .fault (.busError 0x06) := ⟨rfl, rfl, rfl, rfl, rfl⟩

/-! ## The sink, the reset input, the host's interface -/

/-- V-X5. -/
theorem test_tx_last_byte :
    (after (step (withInputs [.sinkReady] { sending with txptr := 9 }))).map
      (fun t => (t.wire, t.txptr, t.txbusy, t.txdone)) = some ([0x0A], 10, false, true) := by decide

theorem test_tx_first_byte :
    (after (step (withInputs [.sinkReady] sending))).map (fun t => (t.wire, t.txptr, t.txbusy, t.txdone)) =
    some ([0x4E], 1, true, false) := by decide

/-- R230: an assertion of rst clears IEN too, and keeps the wire. -/
theorem test_reset_input :
    (after (step (withInputs [.rst true] { sending with ien := 0xF4, wire := [0x4E] }))).map
      (fun t => (statusWord t, t.ien, t.seq, t.wire)) = some (0, 0, 1, [0x4E]) := by decide

theorem test_fetch_command : step (State.reset.withFetchWord 32 0x00004703) =
    exec (.wrCmd 0x00004703) { State.reset with tick := 1 } := by rfl

theorem test_fetch_read : step (State.reset.withFetchWord 8 0x08) = exec .rdSeq { State.reset with tick := 1 } := by rfl

/-! ## Witnesses: states and operands that meet the hypotheses of the statements

One theorem for every statement with hypotheses, with a case for each of its clauses. The encoding, layout and length
statements that hold for all operands have none. -/

/-- `sending` and `held` meet the invariant, whatever the schedule. -/
theorem sending_inv (es : List Input) : BlockInv (withInputs es sending) := by
  refine ⟨?_, ?_, ?_, ?_, ?_, ?_, fun _ => ⟨g28, ?_, ?_, ?_, ?_⟩, ?_, ?_, ?_, ?_, ?_, ?_, ?_, ?_⟩ <;>
    first
    | (simp only [withInputs]; decide)
    | exact show loadedFrame sending = frameBytes sending.seq g28 by decide

theorem held_inv (es : List Input) : BlockInv (withInputs es held) := by
  refine ⟨?_, ?_, ?_, ?_, ?_, ?_, fun _ => ⟨g28, ?_, ?_, ?_, ?_⟩, ?_, ?_, ?_, ?_, ?_, ?_, ?_, ?_⟩ <;>
    first
    | (simp only [withInputs]; decide)
    | exact show loadedFrame held = frameBytes held.seq g28 by decide

/-- A word that decodes, with the largest operand, and accesses that decode, at both ends of the window. -/
theorem test_witness_DecodeAndEncodeAgree :
    decodeCommand 0x0000FF03 = .ok (.push 0xFF) ∧ decodeAccess 0x40 (busRead 0x6C) = .ok .rdId ∧
    decodeAccess 0x40 (busWrite 0x40 0xFFFFFFFF) = .ok (.wrCmd 0xFFFFFFFF) := by decide

/-- Words of each verdict, at the ends of the field ranges. -/
theorem test_witness_CommandDecodeVerdict :
    0xA ≤ (0x0000000A : Word).toNat % 16 ∧ 0xA ≤ (0xFFFFFFFF : Word).toNat % 16 ∧
    (0x00010000 : Word).toNat % 16 < 0xA ∧ (0x00010000 : Word).toNat / 65536 ≠ 0 ∧
    (0x00000019 : Word).toNat % 16 < 0xA ∧ (0x00000019 : Word).toNat / 16 % 16 ≠ 0 ∧
    (0x00000102 : Word).toNat % 16 ≠ 3 ∧ (0x00000102 : Word).toNat / 256 % 256 ≠ 0 ∧
    decodeCommand 0x0000FF03 = .ok (.push 0xFF) ∧ decodeCommand 0x00000009 = .ok .raw := by decide

/-- Accesses of each clause: outside at both ends, inside and undefined at both ends, and defined in both directions. -/
theorem test_witness_AccessDecodeVerdict :
    (busRead 0x3F).inWindow 0x40 = false ∧ (busRead 0x80).inWindow 0x40 = false ∧
    ((busRead 0x40).inWindow 0x40 = true ∧ (busRead 0x40).wf 0x40 = false) ∧
    ((busRead 0x7F).inWindow 0x40 = true ∧ (busRead 0x7F).wf 0x40 = false) ∧
    (busRead 0x44).wf 0x40 = true ∧ (busRead 0x6C).wf 0x40 = true ∧
    (busWrite 0x40 0).wf 0x40 = true ∧ (busWrite 0x60 0).wf 0x40 = true := by decide

/-- The lanes at both ends. -/
theorem test_witness_BusLanesAreLittleEndian :
    (0 < 4 ∧ (lanesOf 0x00004703)[0]? = some 0x03) ∧ (3 < 4 ∧ (lanesOf 0x12000000)[3]? = some 0x12) := by decide

/-- V-X3 and V-X4: N1 G28 and its reversal. -/
theorem test_witness_XorfoldIsOrderIndependent :
    ([0x4E, 0x31, 0x20, 0x47, 0x32, 0x38] : Bytes).Perm [0x38, 0x32, 0x47, 0x20, 0x31, 0x4E] := by decide

/-- A rendering that starts with the digit 0, and the largest value below 256. -/
theorem test_witness_DecRendersTheValue : (dec 0).head? = some 0x30 ∧ (255 : Word).toNat < 256 ∧ (0x30 : Byte) ∈ dec 0 := by
  decide

theorem test_witness_FrameDeterminesSequenceAndCommand : frameBytes 1 g28 = frameBytes 1 [0x47, 0x32, 0x38] := rfl

/-- Words of opcode 0 that are no NOP, at the ends of the range. -/
theorem test_witness_NopChangesNothing :
    ((0x00000010 : Word).toNat % 16 = 0 ∧ (0x00000010 : Word) ≠ 0) ∧
    ((0xFFFFFFF0 : Word).toNat % 16 = 0 ∧ (0xFFFFFFF0 : Word) ≠ 0) := by decide

/-- An empty buffer, one with room for one byte, and a full one. -/
theorem test_witness_PushAppendsOrDrops :
    ready.cfg.wf = true ∧ Memory.wf ready.cmdbuf = true ∧
    ready.cmdlen.toNat < ready.cfg.cmdMax ∧
    ({ ready with cmdlen := 127 }).cmdlen.toNat < ready.cfg.cmdMax ∧
    ¬ ({ ready with cmdlen := 128 }).cmdlen.toNat < ready.cfg.cmdMax := by decide

/-- Each branch of ENCODE: BUSY, RSTPEND, TRUNC with a full buffer, and the effect. -/
theorem test_witness_EncodeBuildsTheFrame :
    (sending.cfg.wf = true ∧ sending.cmdlen.toNat ≤ sending.cfg.cmdMax ∧ Memory.wf sending.frame = true) ∧
    sending.txbusy = true ∧
    (({ held with streak := 3 }).txbusy = false ∧ ({ held with streak := 3 }).streak = 3) ∧
    (({ held with cmdlen := 128, cmdtrunc := true }).cmdlen.toNat ≤ held.cfg.cmdMax ∧ held.streak ≠ 3 ∧
      ({ held with cmdlen := 128, cmdtrunc := true }).cmdtrunc = true) ∧
    (held.txbusy = false ∧ held.streak ≠ 3 ∧ held.cmdtrunc = false ∧ Memory.wf held.frame = true) := by decide

/-- Each branch of RAW: BUSY, TRUNC, and the effect, at STREAK = 3 too. -/
theorem test_witness_RawSendsTheUnframedLine :
    (sending.cfg.wf = true ∧ sending.cmdlen.toNat ≤ sending.cfg.cmdMax ∧ Memory.wf sending.frame = true) ∧
    sending.txbusy = true ∧
    (({ held with cmdtrunc := true }).txbusy = false ∧ ({ held with cmdtrunc := true }).cmdtrunc = true) ∧
    (({ held with streak := 3 }).txbusy = false ∧ ({ held with streak := 3 }).cmdtrunc = false ∧
      held.cfg.wf = true ∧ held.cmdlen.toNat ≤ held.cfg.cmdMax ∧ Memory.wf held.frame = true) := by decide

/-- Each branch of ACK: BUSY, RSTPEND, NOFRAME, and the effect, at the largest SEQ too. -/
theorem test_witness_AckAdvancesTheSequence :
    sending.txbusy = true ∧ (held.txbusy = false ∧ ({ held with streak := 3 }).streak = 3) ∧
    (held.streak ≠ 3 ∧ ({ held with fvalid := false }).fvalid = false) ∧
    (held.streak ≠ 3 ∧ held.fvalid = true ∧ ({ held with seq := 0xFFFFFFFF }).seq = 0xFFFFFFFF) := by decide

/-- Each branch of RESEND: BUSY, RSTPEND, NOFRAME, a replay (STREAK 0 and 1) and the third (STREAK 2). -/
theorem test_witness_ResendCountsAndReplays :
    sending.txbusy = true ∧ (held.txbusy = false ∧ ({ held with streak := 3 }).streak = 3) ∧
    ({ held with fvalid := false }).fvalid = false ∧
    (held.fvalid = true ∧ held.streak.toNat + 1 < 3 ∧ ({ held with streak := 1 }).streak.toNat + 1 < 3) ∧
    (({ held with streak := 2 }).streak ≠ 3 ∧ ¬ ({ held with streak := 2 }).streak.toNat + 1 < 3) := by decide

theorem test_witness_ErstRenumbers : sending.txbusy = true ∧ ¬ ({ held with streak := 3 }).txbusy = true := by decide

/-- CMD_MAX at both ends of its range (R6). -/
theorem test_witness_ReadIdReturnsTheParameters :
    ({ Config.default with cmdMax := 1 }).wf = true ∧ ({ Config.default with cmdMax := 65518 }).wf = true := by decide

theorem test_witness_ReadStatusReturnsTheFlags : held.streak ≠ 3 ∧ ({ held with streak := 3 }).streak = 3 ∧ 9 ≤ 31 := by
  decide

theorem test_witness_WriteToCmdRunsTheCommand :
    decodeCommand 0x0000FF03 = .ok (.push 0xFF) ∧ decodeCommand 0x0000000A = .error .illOp ∧
    decodeCommand 0xFFFFFFF9 = .error .illRsvd := by decide

theorem test_witness_RefusalRecordsTheFirstCause :
    held.errcause = 0 ∧ ({ held with errState := true, errcause := 6, errcmd := 4 }).errcause ≠ 0 := by decide

/-- While sending: the five commands, and instructions that leave the transmission as it is. -/
theorem test_witness_CommandsDuringATransmission :
    sending.txbusy = true ∧ after (exec .clr sending) = some { sending with cmdlen := 0 } ∧
    (after (exec (.wrCmd 0x00000004) sending)).isSome = true ∧ decodeCommand 0x00000004 = .ok .encode ∧
    Instr.clr ≠ .init := by decide

/-- An access that decodes, a read and a write. -/
theorem test_witness_StepRunsTheDecodedAccess :
    (withInputs [.host (busRead 0x2C)] held).inputs = .host (busRead 0x2C) :: [] ∧ held.rst = false ∧
    decodeAccess held.cfg.base (busRead 0x2C) = .ok .rdId ∧
    decodeAccess held.cfg.base (busWrite 0x00 0xFFFFFFFF) = .ok (.wrCmd 0xFFFFFFFF) := by decide

/-- In the window and undefined, at both ends, and defined. -/
theorem test_witness_UndefinedAccessesAreBusErrors :
    held.rst = false ∧ (withInputs [.host (busRead 0x00)] held).inputs = .host (busRead 0x00) :: [] ∧
    ((busRead 0x00).inWindow held.cfg.base = true ∧ (busRead 0x00).wf held.cfg.base = false) ∧
    ((busRead 0x3F).inWindow held.cfg.base = true ∧ (busRead 0x3F).wf held.cfg.base = false) ∧
    ((busWrite 0x20 0).inWindow held.cfg.base = true ∧ (busWrite 0x20 0).wf held.cfg.base = true) := by decide

theorem test_witness_AccessesWithoutAStepStop :
    ((withInputs [.host (busRead 0x04)] { State.reset with rst := true }).inputs = .host (busRead 0x04) :: [] ∧
      ({ State.reset with rst := true }).rst = true) ∧
    (withInputs [.otherHost (busRead 0x04)] held).inputs = .otherHost (busRead 0x04) :: [] := by decide

/-- No event; an access just above the window; an offer while nothing is sent. -/
theorem test_witness_EventsThatChangeNothing :
    held.inputs = [] ∧ ((withInputs [.host (busRead 0x40)] held).inputs = .host (busRead 0x40) :: [] ∧ held.rst = false ∧
      (busRead 0x40).inWindow held.cfg.base = false) ∧
    ((withInputs [.sinkReady] held).inputs = .sinkReady :: [] ∧ held.txbusy = false) := by decide

/-- A byte in the middle, and the last one. -/
theorem test_witness_TransferSendsTheNextByte :
    (withInputs [.sinkReady] sending).inputs = .sinkReady :: [] ∧ sending.txbusy = true ∧
    ¬ sending.txptr + 1 = sending.framelen ∧
    ({ sending with txptr := 9 }).txptr + 1 = sending.framelen := by decide

theorem test_witness_ResetAssertionForcesResetValues :
    (withInputs [.rst true, .sinkReady] sending).inputs = .rst true :: [.sinkReady] := by decide

/-- SEQ moves by an accepted ACK, goes to 1 by ERST, and stays otherwise. -/
theorem test_witness_SeqChangesOnlyByItsCommands :
    (∃ t, step (withInputs (commandEvents 0 [.ack]) held) = .next t ∧ t.seq = 2) ∧
    (∃ t, step (withInputs (commandEvents 0 [.erst]) { held with seq := 7 }) = .next t ∧ t.seq = 1) ∧
    (∃ t, step (withInputs [.sinkReady] sending) = .next t ∧ t.seq = 1) :=
  ⟨⟨_, rfl, by decide⟩, ⟨_, rfl, by decide⟩, ⟨_, rfl, by decide⟩⟩

theorem test_witness_StreakChangesOnlyByItsCommands :
    (∃ t, step (withInputs (commandEvents 0 [.resend]) { held with streak := 2 }) = .next t ∧ t.streak = 3) ∧
    (∃ t, step (withInputs (commandEvents 0 [.ack]) { held with streak := 2 }) = .next t ∧ t.streak = 0) :=
  ⟨⟨_, rfl, by decide⟩, ⟨_, rfl, by decide⟩⟩

/-- A step with every sticky bit set, and one that starts a transmission with TXDONE set. -/
theorem test_witness_StickyBitsStayUntilCleared :
    (∃ t, step (withInputs [.host (busRead 0x04)]
        { held with txdone := true, errIll := true, errState := true, seqwrap := true, errcause := 1 }) = .next t ∧
      t.txdone = true) ∧
    (∃ t, step (withInputs (commandEvents 0 [.raw]) { held with txdone := true }) = .next t ∧ t.txdone = false ∧
      t.txbusy = true) ∧ held.txbusy = false ∧
    ¬ nextIsCommand (withInputs (commandEvents 0 [.raw]) held) .clrev ∧
    ¬ nextIsCommand (withInputs (commandEvents 0 [.raw]) held) .init ∧
    ¬ nextIsReset (withInputs (commandEvents 0 [.raw]) held) := by
  refine ⟨⟨_, rfl, by decide⟩, ⟨_, rfl, by decide⟩, rfl, ?_, ?_, ?_⟩ <;> simp only [nextIsCommand, nextIsReset] <;> decide


/-- A refused command after a recorded refusal, by no clearing event. -/
theorem test_witness_FirstRefusalIsKept :
    (∃ t, step (withInputs (commandEvents 0 [.encode]) { sending with errIll := true, errcause := 1, errcmd := 0xA }) = .next t ∧
      t.errState = true) ∧
    ({ sending with errIll := true, errcause := 1, errcmd := 0xA }).errcause ≠ 0 ∧
    ¬ nextIsCommand (withInputs (commandEvents 0 [.encode]) sending) .clrev ∧
    ¬ nextIsCommand (withInputs (commandEvents 0 [.encode]) sending) .init ∧
    ¬ nextIsReset (withInputs (commandEvents 0 [.encode]) sending) := by
  refine ⟨⟨_, rfl, by decide⟩, ?_, ?_, ?_, ?_⟩ <;> (try simp only [nextIsCommand, nextIsReset]) <;> decide

/-- A write of IEN, a reset with IEN set, and a step that leaves it. -/
theorem test_witness_IenChangesOnlyByItsWrite :
    (∃ t, step (withInputs [.host (busWrite 0x20 0xFFFFFFFF)] held) = .next t ∧ t.ien = 0xF4) ∧
    (∃ t, step (withInputs [.rst true] { held with ien := 0xF4 }) = .next t ∧ t.ien = 0) ∧
    (∃ t, step (withInputs (commandEvents 0 [.init]) { held with ien := 0xF4 }) = .next t ∧ t.ien = 0xF4) :=
  ⟨⟨_, rfl, by decide⟩, ⟨_, rfl, by decide⟩, ⟨_, rfl, by decide⟩⟩

/-- A step that sets exactly one event bit: the third RESEND sets RSTREQ. -/
theorem test_witness_AtMostOneEventBitRises :
    ∃ t, step (withInputs (commandEvents 0 [.resend]) { held with streak := 2 }) = .next t ∧ rstreq t = true ∧
      t.txdone = false ∧ t.errState = false := ⟨_, rfl, by decide⟩

/-- A command refused while sending, and INIT, which ends the transmission. -/
theorem test_witness_FrameIsStableWhileBusy :
    sending.txbusy = true ∧ (∃ t, step (withInputs (commandEvents 0 [.raw]) sending) = .next t ∧ t.framelen = 10) ∧
    (∃ t, step (withInputs (commandEvents 0 [.init]) sending) = .next t ∧ t.txbusy = false) :=
  ⟨rfl, ⟨_, rfl, by decide⟩, ⟨_, rfl, by decide⟩⟩

theorem test_witness_WireGrowsOnlyByTransfers :
    ∃ t, step (withInputs [.sinkReady] sending) = .next t ∧ t.wire = [0x4E] := ⟨_, rfl, by decide⟩

/-- A loaded frame that a step keeps, and one that INIT removes. -/
theorem test_witness_FramelenStaysNonzero :
    BlockInv (withInputs (commandEvents 0 [.ack]) held) ∧ held.framelen ≠ 0 ∧
    (∃ t, step (withInputs (commandEvents 0 [.ack]) held) = .next t ∧ t.framelen ≠ 0) ∧
    BlockInv (withInputs (commandEvents 0 [.init]) held) ∧
    (∃ t, step (withInputs (commandEvents 0 [.init]) held) = .next t ∧ t.framelen = 0) :=
  ⟨held_inv _, by decide, ⟨_, rfl, by decide⟩, held_inv _, ⟨_, rfl, by decide⟩⟩

/-- A state with a held frame and one that is sending, both with the invariant and a step. -/
theorem test_witness_EveryStepKeepsInv :
    (BlockInv (withInputs (commandEvents 0 [.resend]) held) ∧
      ∃ t, step (withInputs (commandEvents 0 [.resend]) held) = .next t ∧ t.txbusy = true) ∧
    (BlockInv (withInputs [.sinkReady] sending) ∧
      ∃ t, step (withInputs [.sinkReady] sending) = .next t ∧ t.txptr = 1) :=
  ⟨⟨held_inv _, ⟨_, rfl, by decide⟩⟩, ⟨sending_inv _, ⟨_, rfl, by decide⟩⟩⟩

theorem test_witness_DrainSendsThePendingBytes :
    BlockInv (withInputs (txEvents 10 ++ [.rst true]) sending) ∧ sending.txbusy = true ∧
    (withInputs (txEvents 10 ++ [.rst true]) sending).inputs =
      txEvents (sending.framelen.toNat - sending.txptr.toNat) ++ [.rst true] := ⟨sending_inv _, rfl, rfl⟩

theorem test_witness_SendTransmitsTheFrame :
    BlockInv (withInputs (commandEvents 0 (send g28) ++ txEvents 10) held) ∧ held.rst = false ∧ held.txbusy = false ∧
    held.streak ≠ 3 ∧ g28.length ≤ held.cfg.cmdMax ∧
    (withInputs (commandEvents 0 (send g28) ++ txEvents 10) held).inputs =
      commandEvents held.cfg.base (send g28) ++ txEvents (frameBytes held.seq g28).length ++ [] :=
  ⟨held_inv _, rfl, rfl, by decide, by decide, by decide⟩

theorem test_witness_ResendEscalation :
    BlockInv (withInputs (commandEvents 0 [.resend] ++ txEvents 10 ++ commandEvents 0 [.resend] ++ txEvents 10 ++
      commandEvents 0 [.resend]) held) ∧
    held.rst = false ∧ held.fvalid = true ∧ held.streak = 0 ∧ held.txbusy = false ∧
    (withInputs (commandEvents 0 [.resend] ++ txEvents 10 ++ commandEvents 0 [.resend] ++ txEvents 10 ++
      commandEvents 0 [.resend]) held).inputs =
      commandEvents held.cfg.base [.resend] ++ txEvents held.framelen.toNat ++
        commandEvents held.cfg.base [.resend] ++ txEvents held.framelen.toNat ++
        commandEvents held.cfg.base [.resend] ++ [] :=
  ⟨held_inv _, rfl, rfl, rfl, rfl, by decide⟩

/-- A run of two steps, an accepted ACK among them. -/
theorem test_witness_SequenceLaw :
    (∃ t, run 2 (withInputs (commandEvents 0 [.ack, .nop]) held) = .next t ∧ t.seq = 2) ∧
    ∀ e ∈ commandEvents 0 [.ack, .nop], Input.renumbers held.cfg.base e = false :=
  ⟨⟨_, rfl, by decide⟩, by decide⟩

end Sys2Proof.Tests
end

section
/-! PROOFS. Decoding, both ways: what a host access or a command word that decodes must be, and what an encoded
instruction decodes to (30_encoding.md R70 to R78). -/

namespace Sys2Proof

/-- A word is the concatenation of its four fields (R70). -/
theorem word_eq_append_fields (w : Word) : rsv1Field w ++ imm8Field w ++ rsv0Field w ++ opField w = w := by
  unfold rsv1Field imm8Field rsv0Field opField
  rw [BitVec.extractLsb'_append_extractLsb'_eq_extractLsb' (show 16 = 8 + 8 from rfl),
    BitVec.extractLsb'_append_extractLsb'_eq_extractLsb' (show 8 = 4 + 4 from rfl),
    BitVec.extractLsb'_append_extractLsb'_eq_extractLsb' (show 4 = 0 + 4 from rfl)]
  exact BitVec.extractLsb'_eq_self

/-- The opcode of a command, with its operand byte, is the command's word (R72). -/
theorem encodeCommand_of_opcodeCommand {op : BitVec 4} {b : Byte} {c : Command} (h : opcodeCommand op b = some c)
    (hb : op ≠ 3 → b = 0) : encodeCommand c = commandWord op b := by
  by_cases h3 : op = 3
  · subst h3; cases h; rfl
  · have hop : op = BitVec.ofNat 4 op.toNat := by simp
    rw [hb h3] at h ⊢
    unfold opcodeCommand at h
    split at h
    case h_4 h4 => exact absurd (BitVec.eq_of_toNat_eq h4) h3
    case h_11 => cases h
    all_goals
      cases h
      rename_i hk
      rw [hop, hk]
      rfl

/-- A word that decodes is the word of its command (R72, R73). -/
theorem encodeCommand_of_decodeCommand {w : Word} {c : Command} (h : decodeCommand w = .ok c) :
    encodeCommand c = w := by
  unfold decodeCommand at h
  split at h
  · cases h
  · rename_i c' hop
    split at h
    · cases h
    · rename_i hrsv
      split at h
      · cases h
      · rename_i himm
        injection h with h
        subst h
        push Not at hrsv himm
        calc encodeCommand c' = commandWord (opField w) (imm8Field w) := encodeCommand_of_opcodeCommand hop himm
          _ = rsv1Field w ++ imm8Field w ++ rsv0Field w ++ opField w := by rw [hrsv.1, hrsv.2]; rfl
          _ = w := word_eq_append_fields w

/-- A command's word decodes to the command (R72, R73). -/
theorem decodeCommand_encodeCommand (c : Command) : decodeCommand (encodeCommand c) = .ok c := by
  cases c with
  | push b => revert b; decide
  | _ => decide

theorem regAt_offset_of_aligned {o : Nat} {r : Reg} (h : regAt o = some r) (ho : o % 4 = 0) : r.offset = o := by
  unfold regAt at h
  split at h <;> cases h <;> simp only [Reg.offset] <;> omega

/-- An access that decodes is the aligned word read or write of one register, and decodes by its direction (R53, R78). -/
theorem decodeAccess_ok_cases {base : Nat} {a : Access} {i : Instr} (h : decodeAccess base a = .ok i) :
    ∃ r : Reg, a.addr = base + r.offset ∧ a.size = 4 ∧
      ((a.dir = .read ∧ readInstr r = .ok i) ∨ (a.dir = .write ∧ writeInstr a.data r = .ok i)) := by
  unfold decodeAccess at h
  split at h
  · cases h
  · rename_i hwin
    split at h
    · cases h
    · rename_i hal
      split at h
      · cases h
      · rename_i r hr
        push Not at hal
        have hbase : base ≤ a.addr := by
          simp only [Access.inWindow, Bool.and_eq_false_iff, decide_eq_false_iff_not] at hwin
          omega
        have hoff := regAt_offset_of_aligned hr hal.2
        refine ⟨r, by omega, hal.1, ?_⟩
        split at h
        · exact .inl ⟨‹_›, h⟩
        · exact .inr ⟨‹_›, h⟩

/-- The only registers a write decodes at are CMD and IEN (R54, R160, R162). -/
theorem writeInstr_ok_cases {v : Word} {r : Reg} {i : Instr} (h : writeInstr v r = .ok i) :
    (r = .cmd ∧ i = .wrCmd v) ∨ (r = .ien ∧ i = .wrIen v) := by
  cases r <;> cases h
  case cmd => exact .inl ⟨rfl, rfl⟩
  case ien => exact .inr ⟨rfl, rfl⟩

/-- A word write at a register's offset is the write of that register, whatever its data (R9, R53). -/
theorem eq_writeAccess_of_fields {base : Nat} {a : Access} {r : Reg} (hd : a.dir = .write)
    (ha : a.addr = base + r.offset) (hs : a.size = 4) : a = writeAccess base r a.data := by
  obtain ⟨dir, addr, size, data⟩ := a
  cases hd; cases ha; cases hs
  rfl

/-- The write of a word to CMD decodes to `wr CMD` of it, wherever the window is (R160). -/
theorem decodeAccess_writeAccess_cmd (base : Nat) (w : Word) :
    decodeAccess base (writeAccess base .cmd w) = .ok (.wrCmd w) := by
  simp [decodeAccess, writeAccess, Access.inWindow, Reg.offset, regAt, writeInstr]

end Sys2Proof

namespace Sys2Proof.Machine

/-- A row that reads a register completes with some word and changes nothing of the block (R55). -/
theorem exec_readInstr {r : Reg} {i : Instr} (h : readInstr r = .ok i) (s : State) :
    ∃ v, exec i s = .next { s with rdata := some v } := by
  cases r <;> cases h <;> exact ⟨_, rfl⟩

theorem runCommand_eq_exec (c : Command) (s : State) : runCommand c s = exec c.toInstr s := by
  cases c <;> rfl

/-- `wr CMD` of a legal word runs its command (R160). -/
theorem exec_wrCmd_ok {w : Word} {c : Command} (h : decodeCommand w = .ok c) (s : State) :
    exec (.wrCmd w) s = exec c.toInstr s := by
  show execWrCmd w s = _
  rw [execWrCmd, h]
  exact runCommand_eq_exec c s

/-- `wr CMD` of an illegal word is refused with the cause of its decode (R160, R200). -/
theorem exec_wrCmd_error {w : Word} {e : IllegalWord} (h : decodeCommand w = .error e) (s : State) :
    exec (.wrCmd w) s = .next (refuse (illegalCause e) w s) := by
  show execWrCmd w s = _
  rw [execWrCmd, h]

/-- The access that carries a command is the write of its word to CMD (R76). -/
theorem encode_toInstr (base : Nat) (c : Command) : encode base c.toInstr = writeAccess base .cmd (encodeCommand c) := by
  cases c <;> rfl

/-- At a command, with rst low, the step is the command's meaning with the event consumed (R60, R160). -/
theorem step_command {s : State} {c : Command} (hn : nextIsCommand s c) (hr : s.rst = false) :
    step s = exec c.toInstr (advance s) := by
  obtain ⟨rest, hi⟩ := List.head?_eq_some_iff.1 hn
  rw [step_cons hi, encode_toInstr, agentStep, hostAccess, advance_rst, hr, advance_cfg,
    decodeAccess_writeAccess_cmd]
  exact exec_wrCmd_ok (decodeCommand_encodeCommand c) (advance s)

end Sys2Proof.Machine
end

section
/-! PROOFS. All a step of the block can be, in one relation with a constructor per effect and the guards of its rule
(R60, R105 to R122, R140 to R162, R171, R230), so that a law of every step is one case split. -/

namespace Sys2Proof.Machine

/-- What a step of `s` that answers a next state can answer: one constructor for each effect of a rule. -/
inductive StepEffect (s : State) : State → Prop
  /-- Nothing reaches the block, or a command without effect: a wait, an access outside the window, an offer of the
  sink while TXBUSY = 0, NOP. -/
  | idle : StepEffect s (advance s)
  | read (v : Word) : StepEffect s { advance s with rdata := some v }
  | writeIen (v : Word) (next : s.inputs.head? = some (.host (encode s.cfg.base (.wrIen v)))) :
      StepEffect s { advance s with ien := ienOperand v }
  | refused (k : Cause) (w : Word) : StepEffect s (refuse k w (advance s))
  | init (next : nextIsCommand s .init) : StepEffect s { resetBlock (advance s) with ien := s.ien }
  | clr (next : nextIsCommand s .clr) : StepEffect s { advance s with cmdlen := 0, cmdtrunc := false }
  | pushAppends (b : Byte) (next : nextIsCommand s (.push b)) (room : s.cmdlen.toNat < s.cfg.cmdMax) :
      StepEffect s { advance s with cmdbuf := Memory.write s.cmdbuf s.cmdlen.toNat b, cmdlen := s.cmdlen + 1 }
  | pushDrops (b : Byte) (next : nextIsCommand s (.push b)) (full : ¬ s.cmdlen.toNat < s.cfg.cmdMax) :
      StepEffect s { advance s with cmdtrunc := true }
  | encode (next : nextIsCommand s .encode) (rstLow : s.rst = false) (quiet : s.txbusy = false)
      (below : s.streak ≠ 3) (whole : s.cmdtrunc = false) :
      StepEffect s { transmit (frameBytes s.seq (commandBytes s)) (advance s) with
        chksum := xorfold (payload s.seq (commandBytes s)), fvalid := true }
  | raw (next : nextIsCommand s .raw) (rstLow : s.rst = false) (quiet : s.txbusy = false)
      (whole : s.cmdtrunc = false) :
      StepEffect s { transmit (rawLine (commandBytes s)) (advance s) with fvalid := false }
  | ack (next : nextIsCommand s .ack) (rstLow : s.rst = false) (quiet : s.txbusy = false)
      (below : s.streak ≠ 3) (held : s.fvalid = true) : StepEffect s (ackEffect (advance s))
  | resendReplays (next : nextIsCommand s .resend) (rstLow : s.rst = false) (quiet : s.txbusy = false)
      (below : s.streak ≠ 3) (held : s.fvalid = true) (sends : s.streak + 1 < rsThresh) :
      StepEffect s (replay { advance s with streak := s.streak + 1 })
  | resendEscalates (next : nextIsCommand s .resend) (rstLow : s.rst = false) (quiet : s.txbusy = false)
      (below : s.streak ≠ 3) (held : s.fvalid = true) (stops : ¬ s.streak + 1 < rsThresh) :
      StepEffect s { advance s with streak := s.streak + 1 }
  | erst (next : nextIsCommand s .erst) (quiet : s.txbusy = false) : StepEffect s (erstEffect (advance s))
  | clrev (next : nextIsCommand s .clrev) : StepEffect s (clearEvents (advance s))
  | transferLast (next : s.inputs.head? = some .sinkReady) (busy : s.txbusy = true)
      (last : s.txptr + 1 = s.framelen) :
      StepEffect s { emit (Memory.read s.frame s.txptr.toNat) (advance s) with
        txptr := s.txptr + 1, txbusy := false, txdone := true }
  | transferMore (next : s.inputs.head? = some .sinkReady) (busy : s.txbusy = true)
      (more : s.txptr + 1 ≠ s.framelen) :
      StepEffect s { emit (Memory.read s.frame s.txptr.toNat) (advance s) with txptr := s.txptr + 1 }
  | reset (next : nextIsReset s) : StepEffect s (assertReset (advance s))
  | release (next : s.inputs.head? = some (.rst false)) : StepEffect s (releaseReset (advance s))

/-- A command at the head of the schedule has one of its effects. -/
theorem stepEffect_of_command {s t : State} {c : Command} (next : nextIsCommand s c) (rstLow : s.rst = false)
    (h : exec c.toInstr (advance s) = .next t) : StepEffect s t := by
  rcases command_next_cases h with ⟨k, w, rfl⟩ | hc
  · exact .refused k w
  cases c with
  | nop => cases hc; exact .idle
  | init => cases hc; exact .init next
  | clr => cases hc; exact .clr next
  | push b =>
    rcases hc with ⟨room, rfl⟩ | ⟨full, rfl⟩
    · exact .pushAppends b next room
    · exact .pushDrops b next full
  | encode => obtain ⟨quiet, below, whole, rfl⟩ := hc; exact .encode next rstLow quiet below whole
  | ack => obtain ⟨quiet, below, held, rfl⟩ := hc; exact .ack next rstLow quiet below held
  | resend =>
    obtain ⟨quiet, below, held, rfl⟩ := hc
    unfold resendEffect
    split
    · exact .resendReplays next rstLow quiet below held ‹_›
    · exact .resendEscalates next rstLow quiet below held ‹_›
  | erst => obtain ⟨quiet, rfl⟩ := hc; exact .erst next quiet
  | clrev => cases hc; exact .clrev next
  | raw => obtain ⟨quiet, whole, rfl⟩ := hc; exact .raw next rstLow quiet whole

/-- A word written to CMD has an effect of its command, or is refused (R160). -/
theorem stepEffect_of_wrCmd {s t : State} {w : Word}
    (next : s.inputs.head? = some (.host (writeAccess s.cfg.base .cmd w))) (rstLow : s.rst = false)
    (h : exec (.wrCmd w) (advance s) = .next t) : StepEffect s t := by
  cases hd : decodeCommand w with
  | error e =>
    rw [exec_wrCmd_error hd] at h
    injection h with h
    exact h ▸ .refused (illegalCause e) w
  | ok c =>
    rw [exec_wrCmd_ok hd] at h
    have hn : nextIsCommand s c := by
      rw [nextIsCommand, encode_toInstr, encodeCommand_of_decodeCommand hd, next]
    exact stepEffect_of_command hn rstLow h

/-- A host access that decodes is a read, a write of IEN, or a write of CMD. -/
theorem stepEffect_of_access {s t : State} {a : Access} {i : Instr} (next : s.inputs.head? = some (.host a))
    (rstLow : s.rst = false) (hd : decodeAccess s.cfg.base a = .ok i) (h : exec i (advance s) = .next t) :
    StepEffect s t := by
  obtain ⟨r, haddr, hsize, ⟨-, hread⟩ | ⟨hdir, hwrite⟩⟩ := decodeAccess_ok_cases hd
  · obtain ⟨v, hv⟩ := exec_readInstr hread (advance s)
    rw [hv] at h
    injection h with h
    exact h ▸ .read v
  · rw [eq_writeAccess_of_fields hdir haddr hsize] at next
    rcases writeInstr_ok_cases hwrite with ⟨rfl, rfl⟩ | ⟨rfl, rfl⟩
    · exact stepEffect_of_wrCmd next rstLow h
    · injection h with h
      exact h ▸ .writeIen a.data next

/-- An offer of the sink transfers the next byte, the last one among them, or finds nothing to send (R171). -/
theorem stepEffect_of_sinkReady {s : State} (next : s.inputs.head? = some .sinkReady) :
    StepEffect s (sinkReady (advance s)) := by
  unfold sinkReady
  split
  · rename_i busy
    unfold txTransfer
    split
    · exact .transferLast next busy ‹_›
    · exact .transferMore next busy ‹_›
  · exact .idle

/-- Every step that answers a next state has one of the effects of `StepEffect`. -/
theorem stepEffect_of_step {s t : State} (h : step s = .next t) : StepEffect s t := by
  rcases step_next_cases h with ⟨-, rfl⟩ | ⟨_, _, -, -, -, rfl⟩ | ⟨a, rest, i, hi, rstLow, hd, he⟩ |
    ⟨rest, hi, rfl⟩ | ⟨rest, hi, rfl⟩ | ⟨rest, hi, rfl⟩
  · exact .idle
  · exact .idle
  · exact stepEffect_of_access (by rw [hi]; rfl) rstLow hd he
  · exact stepEffect_of_sinkReady (by rw [hi]; rfl)
  · exact .reset (by rw [nextIsReset, hi]; rfl)
  · exact .release (by rw [hi]; rfl)

end Sys2Proof.Machine
end

section
/-! PROOFS. The lengths of what a transmission loads (R7, R101, R104 item 4), and what a load leaves in FRAME. -/

namespace Sys2Proof.Machine

/-- The loop of R101 puts at most `k` digits in front of a value below `10 ^ k`. -/
theorem decLoop_length_le (fuel : Nat) {k n : Nat} (hn : n < 10 ^ k) (acc : Bytes) :
    (decLoop fuel n acc).length ≤ k + acc.length := by
  induction fuel generalizing k n acc with
  | zero => simp [decLoop]
  | succ fuel ih =>
    rw [decLoop]
    split
    · omega
    · cases k with
      | zero => omega
      | succ k =>
        have := ih (k := k) (n := n / 10) (by omega) (digit n :: acc)
        rw [List.length_cons] at this
        omega

theorem dec_length_le {k : Nat} {n : Word} (hk : 1 ≤ k) (hn : n.toNat < 10 ^ k) : (dec n).length ≤ k := by
  unfold dec
  split
  · exact hk
  · exact decLoop_length_le 10 hn []

/-- A sequence number has at most ten digits. -/
theorem dec_length_le_ten (n : Word) : (dec n).length ≤ 10 :=
  dec_length_le (by omega) (by omega)

/-- A checksum has at most three digits. -/
theorem dec_checksum_length_le_three (b : Byte) : (dec (b.setWidth 32)).length ≤ 3 :=
  dec_length_le (by omega) (by rw [BitVec.toNat_setWidth]; omega)

/-- A frame is at most 17 bytes longer than its command (R7, R104). -/
theorem frameBytes_length_le (seq : Word) (c : Bytes) : (frameBytes seq c).length ≤ c.length + 17 := by
  have hseq := dec_length_le_ten seq
  have hsum := dec_checksum_length_le_three (xorfold (payload seq c))
  simp only [frameBytes, payload, List.length_append, List.length_singleton] at hsum ⊢
  omega

theorem frameBytes_length_pos (seq : Word) (c : Bytes) : 0 < (frameBytes seq c).length := by
  simp [frameBytes]

theorem rawLine_length (c : Bytes) : (rawLine c).length = c.length + 1 := by
  simp [rawLine]

@[simp] theorem commandBytes_length (s : State) : (commandBytes s).length = s.cmdlen.toNat :=
  Memory.readBytes_length ..

/-- FRAMELEN is wide enough for the longest frame (R6, R7). -/
theorem Config.frameMax_lt_of_wf {c : Config} (h : c.wf = true) : c.frameMax < 2 ^ 16 := by
  simp only [Config.wf, Bool.and_eq_true, decide_eq_true_eq] at h
  simp only [Config.frameMax]
  omega

/-- A length that fits FRAMELEN is what a load leaves there (R107, R108). -/
theorem transmit_framelen_toNat {f : Bytes} (s : State) (hf : f.length < 2 ^ 16) :
    (transmit f s).framelen.toNat = f.length := by
  rw [transmit_framelen, BitVec.toNat_ofNat, Nat.mod_eq_of_lt hf]

/-- A load leaves its bytes in FRAME (R107, R108). -/
theorem loadedFrame_transmit {f : Bytes} {s : State} (hw : Memory.wf s.frame = true) (hf : f.length < 2 ^ 16) :
    loadedFrame (transmit f s) = f := by
  rw [loadedFrame, transmit_framelen_toNat s hf, transmit_frame, Memory.readBytes_writeBytes hw]

end Sys2Proof.Machine
end

section
/-! PROOFS. The invariant: each effect of a step keeps it (R38 and what accompanies it). -/

namespace Sys2Proof.Machine

/-- A frame has bytes, so FRAMELEN is not 0 while one is held (R38 item 4). -/
theorem framelen_pos_of_holdsFrameOfSeq {s : State} (h : holdsFrameOfSeq s) : 0 < s.framelen.toNat := by
  obtain ⟨c, -, hlen, -⟩ := h
  rw [hlen]
  exact frameBytes_length_pos s.seq c

/-- A cause code is one of 1 to 6 (R201). -/
theorem Cause.code_ne_zero (k : Cause) : k.code ≠ 0 := by cases k <;> decide

theorem Cause.code_le (k : Cause) : k.code ≤ 6 := by cases k <;> decide

/-- A write of IEN sets no reserved bit (R32). -/
theorem ienOperand_and_ienMask (v : Word) : ienOperand v &&& ienMask = ienOperand v := by
  rw [ienOperand, BitVec.and_assoc, BitVec.and_self]

namespace BlockInv

variable {s : State}

/-- The schedule and the step counter are no part of the invariant. -/
theorem advance (h : BlockInv s) : BlockInv (advance s) := { h with }

theorem read (h : BlockInv s) (v : Word) : BlockInv { s with rdata := some v } := { h with }

theorem writeIen (h : BlockInv s) (v : Word) : BlockInv { s with ien := ienOperand v } :=
  { h with ien_bits := ienOperand_and_ienMask v }

/-- A refusal records its cause together with the bit of the cause, and its word with the cause (R200). -/
theorem refuse (h : BlockInv s) (k : Cause) (w : Word) : BlockInv (refuse k w s) where
  __ := h
  cause_le := by
    rw [refuse_errcause]
    split
    · exact k.code_le
    · exact h.cause_le
  cause_word := by
    rw [refuse_errcause, refuse_errcmd]
    split
    · exact fun h0 => absurd h0 k.code_ne_zero
    · exact fun h0 => absurd h0 ‹_›
  cause_bits := by
    rw [refuse_errcause, refuse_errIll, refuse_errState]
    have hset : (s.errIll || k.isIllegal) = true ∨ (s.errState || !k.isIllegal) = true := by
      cases k.isIllegal <;> simp
    split
    · exact iff_of_true k.code_ne_zero hset
    · exact iff_of_true ‹_› hset

theorem clr (h : BlockInv s) : BlockInv { s with cmdlen := 0, cmdtrunc := false } :=
  { h with
    cmdlen_le := Nat.zero_le _
    trunc_full := fun ht => by cases ht }

/-- A byte appended to a buffer with room fits, and a buffer with room has lost none (R26, R106). -/
theorem pushAppends (h : BlockInv s) (b : Byte) (room : s.cmdlen.toNat < s.cfg.cmdMax) :
    BlockInv { s with cmdbuf := Memory.write s.cmdbuf s.cmdlen.toNat b, cmdlen := s.cmdlen + 1 } :=
  { h with
    cmdlen_le := le_trans (by simp only [BitVec.toNat_add]; exact Nat.mod_le _ _) room
    trunc_full := fun ht => absurd (h.trunc_full ht) room.ne
    cmdbuf_ok := ⟨Memory.write_wf h.cmdbuf_ok.1, Memory.write_within h.cmdbuf_ok.2 room⟩ }

/-- A byte is dropped only from a full buffer (R106). -/
theorem pushDrops (h : BlockInv s) (full : ¬ s.cmdlen.toNat < s.cfg.cmdMax) :
    BlockInv { s with cmdtrunc := true } :=
  { h with trunc_full := fun _ => le_antisymm h.cmdlen_le (not_lt.1 full) }

/-- Loading a nonempty string that fits FRAME and starting its transmission, with whatever ENCODE or RAW leaves in CHKSUM
and FVALID, as long as a held frame is the frame of SEQ (R107, R108). -/
theorem load (h : BlockInv s) {f : Bytes} {sum : Byte} {valid : Bool} (rstLow : s.rst = false)
    (hpos : 0 < f.length) (hmax : f.length ≤ s.cfg.frameMax)
    (hheld : valid = true → holdsFrameOfSeq { transmit f s with chksum := sum, fvalid := valid }) :
    BlockInv { transmit f s with chksum := sum, fvalid := valid } :=
  have hlen := transmit_framelen_toNat s (hmax.trans_lt (Config.frameMax_lt_of_wf h.params))
  { h with
    idle_ptr := fun hb => by cases hb
    busy_ptr := fun _ => by
      show 0 < (transmit f s).framelen.toNat
      rwa [hlen]
    framelen_le := hlen.trans_le hmax
    held := hheld
    done_idle := fun hd => by cases hd
    rst_idle := fun hr => absurd (rstLow.symm.trans hr) Bool.false_ne_true
    frame_ok := ⟨Memory.writeBytes_wf h.frame_ok.1,
      Memory.writeBytes_within h.frame_ok.2 ((Nat.zero_add _).trans_le hmax)⟩ }

/-- The frame of the command buffer fits FRAME (R7, R25). -/
theorem encoded_length_le (h : BlockInv s) : (frameBytes s.seq (commandBytes s)).length ≤ s.cfg.frameMax := by
  have hframe := frameBytes_length_le s.seq (commandBytes s)
  have hcmd := h.cmdlen_le
  rw [commandBytes_length] at hframe
  unfold Config.frameMax
  omega

/-- The unframed line of the command buffer fits FRAME (R7, R25). -/
theorem rawLine_length_le (h : BlockInv s) : (rawLine (commandBytes s)).length ≤ s.cfg.frameMax := by
  have hcmd := h.cmdlen_le
  rw [rawLine_length, commandBytes_length]
  unfold Config.frameMax
  omega

theorem encode (h : BlockInv s) (rstLow : s.rst = false) : BlockInv (encodeEffect s) :=
  have hlt := h.encoded_length_le.trans_lt (Config.frameMax_lt_of_wf h.params)
  h.load rstLow (frameBytes_length_pos _ _) h.encoded_length_le fun _ =>
    ⟨commandBytes s, (commandBytes_length s).trans_le h.cmdlen_le, transmit_framelen_toNat s hlt,
      loadedFrame_transmit h.frame_ok.1 hlt, rfl⟩

theorem raw (h : BlockInv s) (rstLow : s.rst = false) : BlockInv (rawEffect s) :=
  h.load (sum := s.chksum) rstLow (by rw [rawLine_length]; omega) h.rawLine_length_le fun hv => by cases hv

/-- ACK and ERST change SEQ, and hold no frame afterwards (R120, R122). -/
theorem ack (h : BlockInv s) : BlockInv (ackEffect s) := { h with held := fun hv => by cases hv }

theorem erst (h : BlockInv s) : BlockInv (erstEffect s) := { h with held := fun hv => by cases hv }

theorem count (h : BlockInv s) (n : BitVec 2) : BlockInv { s with streak := n } := { h with }

/-- A held frame can be sent again from byte 0, because it has bytes (R121). -/
theorem replay (h : BlockInv s) (rstLow : s.rst = false) (held : s.fvalid = true) : BlockInv (replay s) :=
  { h with
    idle_ptr := fun hb => by cases hb
    busy_ptr := fun _ => framelen_pos_of_holdsFrameOfSeq (h.held held)
    done_idle := fun hd => by cases hd
    rst_idle := fun hr => absurd (rstLow.symm.trans hr) Bool.false_ne_true }

theorem clearEvents (h : BlockInv s) : BlockInv (clearEvents s) :=
  { h with
    done_idle := fun hd => by cases hd
    cause_le := (by decide : (0 : BitVec 4) ≤ 6)
    cause_word := fun _ => rfl
    cause_bits := by simp }

/-- The reset values have the invariant, with any admitted parameters and any IEN that has it, whatever the level of rst. -/
theorem resetBlock (params : s.cfg.wf = true) {ien : Word} {rst : Bool} (hien : ien &&& ienMask = ien) :
    BlockInv { resetBlock s with ien := ien, rst := rst } where
  params := params
  cmdlen_le := Nat.zero_le _
  trunc_full := fun ht => by cases ht
  idle_ptr := fun _ => rfl
  busy_ptr := fun hb => by cases hb
  framelen_le := Nat.zero_le _
  held := fun hv => by cases hv
  done_idle := fun _ => rfl
  ien_bits := hien
  cause_le := (by decide : (0 : BitVec 4) ≤ 6)
  cause_word := fun _ => rfl
  cause_bits := by simp
  rst_idle := fun _ => rfl
  cmdbuf_ok := ⟨rfl, rfl⟩
  frame_ok := ⟨rfl, rfl⟩

/-- The last byte leaves TXPTR at FRAMELEN (R38 item 3, R171). -/
theorem transferLast (h : BlockInv s) (b : Byte) (last : s.txptr + 1 = s.framelen) :
    BlockInv { emit b s with txptr := s.txptr + 1, txbusy := false, txdone := true } :=
  { h with
    idle_ptr := fun _ => last
    busy_ptr := fun hb => by cases hb
    done_idle := fun _ => rfl
    rst_idle := fun _ => rfl }

/-- Any other byte leaves TXPTR below FRAMELEN (R38 item 3, R171). -/
theorem transferMore (h : BlockInv s) (b : Byte) (busy : s.txbusy = true) (more : s.txptr + 1 ≠ s.framelen) :
    BlockInv { emit b s with txptr := s.txptr + 1 } :=
  { h with
    idle_ptr := fun hb => absurd (hb.symm.trans busy) Bool.false_ne_true
    busy_ptr := fun _ => by
      have hlt := h.busy_ptr busy
      show s.txptr + 1 < s.framelen
      bv_omega }

theorem release (h : BlockInv s) : BlockInv (releaseReset s) := { h with rst_idle := fun hr => by cases hr }

end BlockInv

/-- Settles O48: the reset values, with the default parameters. -/
theorem invHoldsAtReset : Obligations.InvHoldsAtReset :=
  BlockInv.resetBlock (s := State.reset) (rst := false) (by decide) BitVec.zero_and

/-- Settles O49: each effect of a step keeps the invariant. -/
theorem everyStepKeepsInv : Obligations.EveryStepKeepsInv := by
  intro s t hinv hstep
  have h := hinv.advance
  cases stepEffect_of_step hstep with
  | idle => exact h
  | read v => exact h.read v
  | writeIen v => exact h.writeIen v
  | refused k w => exact h.refuse k w
  | init => exact .resetBlock h.params h.ien_bits
  | clr => exact h.clr
  | pushAppends b _ room => exact h.pushAppends b room
  | pushDrops _ _ full => exact h.pushDrops full
  | encode _ rstLow => exact h.encode rstLow
  | raw _ rstLow => exact h.raw rstLow
  | ack => exact h.ack
  | resendReplays _ rstLow _ _ held => exact (h.count _).replay rstLow held
  | resendEscalates => exact h.count _
  | erst => exact h.erst
  | clrev => exact h.clearEvents
  | transferLast _ _ last => exact h.transferLast _ last
  | transferMore _ busy more => exact h.transferMore _ busy more
  | reset => exact .resetBlock h.params BitVec.zero_and
  | release => exact h.release

end Sys2Proof.Machine
end

section
/-! PROOFS. Laws of every step for single fields, one case split each over `StepEffect` (R22, R23, R31, R32, R34, R38). -/

namespace Sys2Proof.Machine

/-- `acceptsAck` says what the guards of ACK say (R120, R230). -/
theorem acceptsAck_iff (s : State) :
    acceptsAck s = true ↔
      nextIsCommand s .ack ∧ s.rst = false ∧ s.txbusy = false ∧ s.streak ≠ 3 ∧ s.fvalid = true := by
  rw [← rstreq_false_iff]
  simp only [acceptsAck, nextIsCommand, Command.toInstr, Bool.and_eq_true, beq_iff_eq, Bool.not_eq_true', and_assoc]

/-- An accepted ACK has its effect (R120). -/
theorem step_of_acceptsAck {s : State} (h : acceptsAck s = true) : step s = .next (ackEffect (advance s)) := by
  obtain ⟨next, rstLow, quiet, below, held⟩ := (acceptsAck_iff s).1 h
  rw [step_command next rstLow]
  refine guarded_of_unchecked fun p hp => ?_
  simp only [verdictChecks, List.mem_cons, List.not_mem_nil, or_false] at hp
  rcases hp with rfl | rfl | rfl
  · exact quiet
  · exact (rstreq_false_iff s).2 below
  · exact congrArg not held

/-- A step that is no accepted ACK keeps SEQ, or renumbers from 1 by ERST, INIT or a reset. -/
theorem seq_of_not_acceptsAck {s t : State} (h : StepEffect s t) (hno : acceptsAck s = false) :
    t.seq = s.seq ∨ (t.seq = 1 ∧ (nextIsCommand s .erst ∨ nextIsCommand s .init ∨ nextIsReset s)) := by
  cases h with
  | ack next rstLow quiet below held =>
    have hyes := (acceptsAck_iff s).2 ⟨next, rstLow, quiet, below, held⟩
    exact absurd (hno.symm.trans hyes) Bool.false_ne_true
  | erst next => exact .inr ⟨rfl, .inl next⟩
  | init next => exact .inr ⟨rfl, .inr (.inl next)⟩
  | reset next => exact .inr ⟨rfl, .inr (.inr next)⟩
  | _ => exact .inl rfl

/-- Settles O39: an accepted ACK has its effect, and no other effect of a step counts SEQ up. -/
theorem seqChangesOnlyByItsCommands : Obligations.SeqChangesOnlyByItsCommands := by
  intro s t h
  cases hacc : acceptsAck s with
  | true =>
    rw [step_of_acceptsAck hacc] at h
    injection h with h
    exact .inr (.inl ⟨rfl, h ▸ rfl⟩)
  | false =>
    rcases seq_of_not_acceptsAck (stepEffect_of_step h) hacc with hseq | hone
    · exact .inl ⟨rfl, hseq⟩
    · exact .inr (.inr hone)

/-- Below 3 STREAK counts up without wrapping (R23). -/
theorem streak_succ_toNat {n : BitVec 2} (h : n ≠ 3) : (n + 1).toNat = n.toNat + 1 := by
  revert n; decide

/-- Settles O40, by the effects of a step: only RESEND counts, and its guard keeps the count from wrapping. -/
theorem streakChangesOnlyByItsCommands : Obligations.StreakChangesOnlyByItsCommands := by
  intro s t h
  cases stepEffect_of_step h with
  | resendReplays next _ _ below => exact .inr (.inl ⟨next, streak_succ_toNat below⟩)
  | resendEscalates next _ _ below => exact .inr (.inl ⟨next, streak_succ_toNat below⟩)
  | ack next => exact .inr (.inr ⟨rfl, .inl next⟩)
  | erst next => exact .inr (.inr ⟨rfl, .inr (.inl next)⟩)
  | init next => exact .inr (.inr ⟨rfl, .inr (.inr (.inl next))⟩)
  | reset next => exact .inr (.inr ⟨rfl, .inr (.inr (.inr next))⟩)
  | _ => exact .inl rfl

/-- What R31 asks of a step that clears no event: the error bits stay set, and TXDONE does unless a transmission starts,
which leaves it 0. -/
def KeepsSticky (s t : State) : Prop :=
  (s.errIll = true → t.errIll = true) ∧ (s.errState = true → t.errState = true) ∧
    (s.seqwrap = true → t.seqwrap = true) ∧
    (s.txdone = true → t.txdone = true ∨ (s.txbusy = false ∧ t.txbusy = true ∧ t.txptr = 0)) ∧
    (s.txbusy = false → t.txbusy = true → t.txdone = false)

/-- A step that sets sticky bits at most, and starts no transmission. -/
theorem KeepsSticky.of_imp {s t : State} (hill : s.errIll = true → t.errIll = true)
    (hstate : s.errState = true → t.errState = true) (hwrap : s.seqwrap = true → t.seqwrap = true)
    (hdone : s.txdone = true → t.txdone = true) (hbusy : t.txbusy = true → s.txbusy = true) : KeepsSticky s t :=
  ⟨hill, hstate, hwrap, fun hd => .inl (hdone hd),
    fun hidle hb => absurd (hidle.symm.trans (hbusy hb)) Bool.false_ne_true⟩

/-- A step that starts a transmission and leaves the error bits alone. -/
theorem KeepsSticky.of_start {s t : State} (hill : t.errIll = s.errIll) (hstate : t.errState = s.errState)
    (hwrap : t.seqwrap = s.seqwrap) (quiet : s.txbusy = false) (hbusy : t.txbusy = true) (hptr : t.txptr = 0)
    (hdone : t.txdone = false) : KeepsSticky s t :=
  ⟨hill.trans, hstate.trans, hwrap.trans, fun _ => .inr ⟨quiet, hbusy, hptr⟩, fun _ _ => hdone⟩

/-- A sticky bit that an effect sets by an OR stays set. -/
theorem or_eq_true_of_left {a b : Bool} (h : a = true) : (a || b) = true := by rw [h, Bool.true_or]

/-- Settles O41, by the effects of a step: refusals and ACK set bits, and three commands start a transmission. -/
theorem stickyBitsStayUntilCleared : Obligations.StickyBitsStayUntilCleared := by
  intro s t h noClrev noInit noReset
  show KeepsSticky s t
  cases stepEffect_of_step h with
  | refused => exact .of_imp or_eq_true_of_left or_eq_true_of_left id id id
  | ack => exact .of_imp id id or_eq_true_of_left id id
  | transferLast => exact .of_imp id id id (fun _ => rfl) (fun hb => by cases hb)
  | encode _ _ quiet => exact .of_start rfl rfl rfl quiet rfl rfl rfl
  | raw _ _ quiet => exact .of_start rfl rfl rfl quiet rfl rfl rfl
  | resendReplays _ _ quiet => exact .of_start rfl rfl rfl quiet rfl rfl rfl
  | clrev next => exact absurd next noClrev
  | init next => exact absurd next noInit
  | reset next => exact absurd next noReset
  | _ => exact .of_imp id id id id id

/-- Settles O42, by the effects of a step: a refusal records only where no cause is recorded. -/
theorem firstRefusalIsKept : Obligations.FirstRefusalIsKept := by
  intro s t h hcause noClrev noInit noReset
  cases stepEffect_of_step h with
  | refused => exact ⟨if_neg hcause, if_neg hcause⟩
  | clrev next => exact absurd next noClrev
  | init next => exact absurd next noInit
  | reset next => exact absurd next noReset
  | _ => exact ⟨rfl, rfl⟩

/-- Settles O43, by the effects of a step. -/
theorem ienChangesOnlyByItsWrite : Obligations.IenChangesOnlyByItsWrite := by
  intro s t h
  cases stepEffect_of_step h with
  | writeIen v next => exact .inr (.inr ⟨v, next, rfl⟩)
  | reset next => exact .inr (.inl ⟨next, rfl⟩)
  | _ => exact .inl rfl

/-- A state that is sending has a byte to send (R38 item 3). -/
theorem BlockInv.framelen_ne_zero_of_busy {s : State} (h : BlockInv s) (busy : s.txbusy = true) : s.framelen ≠ 0 := by
  have hlt := h.busy_ptr busy
  bv_omega

/-- Settles O47: a step that loads FRAME starts to send it, so the invariant after the step gives it a byte. -/
theorem framelenStaysNonzero : Obligations.FramelenStaysNonzero := by
  intro s t hinv h hne
  have ht := everyStepKeepsInv s t hinv h
  cases stepEffect_of_step h with
  | encode => exact .inl (ht.framelen_ne_zero_of_busy rfl)
  | raw => exact .inl (ht.framelen_ne_zero_of_busy rfl)
  | init next => exact .inr (.inl next)
  | reset next => exact .inr (.inr next)
  | _ => exact .inl hne

end Sys2Proof.Machine
end

section
/-! PROOFS. STATUS and irq (R30, R35). -/

namespace Sys2Proof.Machine

/-- Bit `k` of STATUS without IRQ: the flag the register map places there, and 0 from bit 8 up (R30). -/
theorem statusLow_getLsbD (s : State) (k : Nat) :
    (statusLow s).getLsbD k =
      (decide (k = 7) && s.seqwrap || decide (k = 6) && s.errState || decide (k = 5) && s.errIll ||
        decide (k = 4) && s.txdone || decide (k = 3) && s.cmdtrunc || decide (k = 2) && rstreq s ||
        decide (k = 1) && s.fvalid || decide (k = 0) && s.txbusy) := by
  simp only [statusLow, BitVec.getLsbD_or, flagBit_getLsbD, Nat.reduceLT]

/-- Bit 8 of STATUS is irq (R35). -/
theorem statusWord_getLsbD_eight (s : State) : (statusWord s).getLsbD 8 = irq s := by
  rw [statusWord, BitVec.getLsbD_or, flagBit_getLsbD _ _ _ (by decide), statusLow_getLsbD]
  simp

/-- The mask's bits are 2, 4, 5, 6 and 7 (R32). -/
theorem ienMask_getLsbD (k : Nat) :
    ienMask.getLsbD k = (k == 2 || k == 4 || k == 5 || k == 6 || k == 7) := by
  by_cases hk : k < 32
  · revert k; decide
  · rw [BitVec.getLsbD_of_ge _ _ (by omega)]
    simp
    omega

theorem ne_zero_iff_exists_getLsbD {x : Word} : x ≠ 0 ↔ ∃ k, x.getLsbD k = true := by
  constructor
  · intro hne
    by_contra! hnone
    exact hne (BitVec.eq_of_getLsbD_eq fun k _ => by simpa using hnone k)
  · rintro ⟨k, hk⟩ rfl
    simp at hk

/-- A word meets the mask when one of the mask's five bits of it is set. -/
theorem and_ienMask_ne_zero (x : Word) :
    (x &&& ienMask != 0) =
      (x.getLsbD 2 || x.getLsbD 4 || x.getLsbD 5 || x.getLsbD 6 || x.getLsbD 7) := by
  have hbit (k : Nat) : (x &&& ienMask).getLsbD k =
      (x.getLsbD k && (k == 2 || k == 4 || k == 5 || k == 6 || k == 7)) := by
    rw [BitVec.getLsbD_and, ienMask_getLsbD]
  rw [Bool.eq_iff_iff, bne_iff_ne, ne_zero_iff_exists_getLsbD]
  constructor
  · rintro ⟨k, hk⟩
    rw [hbit] at hk
    grind
  · intro hset
    simp only [Bool.or_eq_true] at hset
    rcases hset with (((h | h) | h) | h) | h
    · exact ⟨2, by rw [hbit, h]; rfl⟩
    · exact ⟨4, by rw [hbit, h]; rfl⟩
    · exact ⟨5, by rw [hbit, h]; rfl⟩
    · exact ⟨6, by rw [hbit, h]; rfl⟩
    · exact ⟨7, by rw [hbit, h]; rfl⟩

/-- irq as the OR over its five sources (R35, R207). -/
theorem irq_eq_or (s : State) :
    irq s = (rstreq s && s.ien.getLsbD 2 || s.txdone && s.ien.getLsbD 4 || s.errIll && s.ien.getLsbD 5 ||
      s.errState && s.ien.getLsbD 6 || s.seqwrap && s.ien.getLsbD 7) := by
  rw [irq, and_ienMask_ne_zero]
  simp only [BitVec.getLsbD_and, statusLow_getLsbD]
  simp

/-- Bit 8, irq itself, is the one bit STATUS has beside its low byte, and the mask leaves it out (R35). -/
theorem irq_eq_statusWord (s : State) : irq s = ((statusWord s &&& s.ien) &&& ienMask != 0) := by
  rw [irq, and_ienMask_ne_zero, and_ienMask_ne_zero]
  simp only [statusWord, BitVec.getLsbD_and, BitVec.getLsbD_or, flagBit_getLsbD, Nat.reduceLT]
  simp

/-- Settles O26, bit by bit over the five bits of the mask. -/
theorem irqIsTheOrOfEnabledSources : Obligations.IrqIsTheOrOfEnabledSources :=
  ⟨by decide, fun s => ⟨irq_eq_statusWord s, statusWord_getLsbD_eight s, irq_eq_or s⟩⟩

end Sys2Proof.Machine
end

section
/-! PROOFS. Host accesses (20_memory.md): the byte lanes of a bus word (R56), which accesses decode and to which row (R51,
R53, R54, R78), and what the step answers at one (R60, R163, R203). -/

namespace Sys2Proof

/-- A lane's number, by division (R56). -/
theorem lane_eq_ofNat_div (w : Word) (k : Nat) : lane w k = BitVec.ofNat 8 (w.toNat / 256 ^ k) := by
  have hpow : 2 ^ (8 * k) = 256 ^ k := Nat.pow_mul 2 8 k
  rw [lane, BitVec.extractLsb', Nat.shiftRight_eq_div_pow, hpow]

theorem lanesOf_getElem? (w : Word) {k : Nat} (hk : k < 4) : (lanesOf w)[k]? = some (lane w k) := by
  have hmap : lanesOf w = (List.range 4).map (lane w) := rfl
  simp [hmap, hk]

/-- The four lanes of a word carry the word (R56). -/
theorem wordOfLanes_lanesOf (w : Word) : wordOfLanes (lanesOf w) = some w := by
  have happend : lane w 3 ++ lane w 2 ++ lane w 1 ++ lane w 0 = w := by
    unfold lane
    rw [BitVec.extractLsb'_append_extractLsb'_eq_extractLsb' (show 8 * 3 = 8 * 2 + 8 from rfl),
      BitVec.extractLsb'_append_extractLsb'_eq_extractLsb' (show 8 * 2 = 8 * 1 + 8 from rfl),
      BitVec.extractLsb'_append_extractLsb'_eq_extractLsb' (show 8 * 1 = 8 * 0 + 8 from rfl)]
    exact BitVec.extractLsb'_eq_self
  exact congrArg some happend

/-- Settles O6, from the number of a lane and the lanes' concatenation. -/
theorem busLanesAreLittleEndian : Obligations.BusLanesAreLittleEndian := fun w =>
  ⟨wordOfLanes_lanesOf w, fun k hk => by rw [lanesOf_getElem? w hk, lane_eq_ofNat_div]⟩

@[simp] theorem regAt_offset (r : Reg) : regAt r.offset = some r := by cases r <;> rfl

@[simp] theorem Reg.offset_mod_four (r : Reg) : r.offset % 4 = 0 := by cases r <;> rfl

theorem Reg.offset_le (r : Reg) : r.offset ≤ 0x2C := by cases r <;> decide

theorem Access.inWindow_iff (base : Nat) (a : Access) :
    a.inWindow base = true ↔ base ≤ a.addr ∧ a.addr ≤ base + 0x3F := by
  simp [Access.inWindow]

/-- An access at a register's offset is in the window (R51, R52). -/
theorem Access.inWindow_of_addr {base : Nat} {a : Access} {r : Reg} (haddr : a.addr = base + r.offset) :
    a.inWindow base = true := by
  have := r.offset_le
  rw [Access.inWindow_iff]
  omega

/-- An aligned word read at a register's offset decodes to the register's read row (R53, R54, R78). -/
theorem decodeAccess_read {base : Nat} {a : Access} {r : Reg} (hdir : a.dir = .read)
    (haddr : a.addr = base + r.offset) (hsize : a.size = 4) : decodeAccess base a = readInstr r := by
  have hoff : a.addr - base = r.offset := by omega
  simp [decodeAccess, Access.inWindow_of_addr haddr, hsize, hoff, hdir]

/-- An aligned word write at a register's offset decodes to the register's write row (R53, R54, R78). -/
theorem decodeAccess_write {base : Nat} {a : Access} {r : Reg} (hdir : a.dir = .write)
    (haddr : a.addr = base + r.offset) (hsize : a.size = 4) : decodeAccess base a = writeInstr a.data r := by
  have hoff : a.addr - base = r.offset := by omega
  simp [decodeAccess, Access.inWindow_of_addr haddr, hsize, hoff, hdir]

theorem decodeAccess_outside {base : Nat} {a : Access} (h : a.inWindow base = false) :
    decodeAccess base a = .error .outside := by
  rw [decodeAccess, if_pos h]

theorem readInstr_ne_outside (r : Reg) : readInstr r ≠ .error .outside := by cases r <;> simp [readInstr]

theorem writeInstr_ne_outside (v : Word) (r : Reg) : writeInstr v r ≠ .error .outside := by
  cases r <;> simp [writeInstr]

/-- The verdict `outside` is given outside the window only (R51). -/
theorem decodeAccess_ne_outside {base : Nat} {a : Access} (h : a.inWindow base = true) :
    decodeAccess base a ≠ .error .outside := by
  unfold decodeAccess
  rw [if_neg (by simp [h])]
  split
  · simp
  · split
    · simp
    · split
      · exact readInstr_ne_outside _
      · exact writeInstr_ne_outside _ _

/-- The readable offsets are those of the registers that have a read row (R52, R54). -/
theorem mem_readableOffsets_iff (o : Nat) :
    o ∈ readableOffsets ↔ ∃ r : Reg, r.offset = o ∧ ∃ i, readInstr r = .ok i := by
  constructor
  · intro h
    fin_cases h
    exacts [⟨.status, rfl, _, rfl⟩, ⟨.seq, rfl, _, rfl⟩, ⟨.streak, rfl, _, rfl⟩, ⟨.chksum, rfl, _, rfl⟩,
      ⟨.cmdlen, rfl, _, rfl⟩, ⟨.framelen, rfl, _, rfl⟩, ⟨.txptr, rfl, _, rfl⟩, ⟨.ien, rfl, _, rfl⟩,
      ⟨.errcause, rfl, _, rfl⟩, ⟨.errcmd, rfl, _, rfl⟩, ⟨.id, rfl, _, rfl⟩]
  · rintro ⟨r, rfl, i, hi⟩
    cases r <;> cases hi <;> decide

/-- The writable offsets are those of the registers that have a write row, whatever the data (R52, R54). -/
theorem mem_writableOffsets_iff (v : Word) (o : Nat) :
    o ∈ writableOffsets ↔ ∃ r : Reg, r.offset = o ∧ ∃ i, writeInstr v r = .ok i := by
  constructor
  · intro h
    fin_cases h
    exacts [⟨.cmd, rfl, _, rfl⟩, ⟨.ien, rfl, _, rfl⟩]
  · rintro ⟨r, rfl, i, hi⟩
    cases r <;> cases hi <;> decide

/-- The accesses that the block defines are those that decode (R53, R54, R78). -/
theorem Access.wf_iff_decodes (base : Nat) (a : Access) :
    a.wf base = true ↔ ∃ i, decodeAccess base a = .ok i := by
  constructor
  · intro h
    simp only [Access.wf, Bool.and_eq_true, Access.inWindow_iff, beq_iff_eq] at h
    obtain ⟨⟨⟨⟨hbase, -⟩, hsize⟩, -⟩, hoffset⟩ := h
    cases hdir : a.dir with
    | read =>
      rw [hdir, List.contains_iff_mem, mem_readableOffsets_iff] at hoffset
      obtain ⟨r, hr, i, hi⟩ := hoffset
      exact ⟨i, (decodeAccess_read hdir (by omega) hsize).trans hi⟩
    | write =>
      rw [hdir, List.contains_iff_mem, mem_writableOffsets_iff a.data] at hoffset
      obtain ⟨r, hr, i, hi⟩ := hoffset
      exact ⟨i, (decodeAccess_write hdir (by omega) hsize).trans hi⟩
  · rintro ⟨i, hi⟩
    obtain ⟨r, haddr, hsize, hrow⟩ := decodeAccess_ok_cases hi
    have hoff : a.addr - base = r.offset := by omega
    simp only [Access.wf, Access.inWindow_of_addr haddr, hsize, hoff, Reg.offset_mod_four]
    rcases hrow with ⟨hdir, hrow⟩ | ⟨hdir, hrow⟩
    · simpa [hdir] using (mem_readableOffsets_iff r.offset).2 ⟨r, rfl, i, hrow⟩
    · simpa [hdir] using (mem_writableOffsets_iff a.data r.offset).2 ⟨r, rfl, i, hrow⟩

/-- A read row is a bus access, carried by the read of its register (R76). -/
theorem encode_of_readInstr {r : Reg} {i : Instr} (h : readInstr r = .ok i) (base : Nat) :
    i.command? = none ∧ encode base i = readAccess base r := by
  cases r <;> cases h <;> exact ⟨rfl, rfl⟩

/-- A write row is a bus access, carried by the write of its data to its register (R76). -/
theorem encode_of_writeInstr {v : Word} {r : Reg} {i : Instr} (h : writeInstr v r = .ok i) (base : Nat) :
    i.command? = none ∧ encode base i = writeAccess base r v := by
  rcases writeInstr_ok_cases h with ⟨rfl, rfl⟩ | ⟨rfl, rfl⟩ <;> exact ⟨rfl, rfl⟩

/-- Settles O4: the window decides `outside`, `Access.wf_iff_decodes` the rest, and the row is read off its access. -/
theorem accessDecodeVerdict : Obligations.AccessDecodeVerdict := by
  refine fun base a => ⟨decodeAccess_outside, fun hwin hwf => ?_, fun hwf => ?_⟩
  · cases hdec : decodeAccess base a with
    | error e => exact ⟨e, fun he => decodeAccess_ne_outside hwin (he ▸ hdec), rfl⟩
    | ok i => simp [(Access.wf_iff_decodes base a).2 ⟨i, hdec⟩] at hwf
  · obtain ⟨i, hdec⟩ := (Access.wf_iff_decodes base a).1 hwf
    obtain ⟨r, haddr, -, ⟨hdir, hrow⟩ | ⟨hdir, hrow⟩⟩ := decodeAccess_ok_cases hdec
    · obtain ⟨hbus, henc⟩ := encode_of_readInstr hrow base
      exact ⟨i, hbus, hdec, by rw [henc, hdir]; rfl, by rw [henc, haddr]; rfl, by simp [hdir]⟩
    · obtain ⟨hbus, henc⟩ := encode_of_writeInstr hrow base
      exact ⟨i, hbus, hdec, by rw [henc, hdir]; rfl, by rw [henc, haddr]; rfl, fun _ => by rw [henc]; rfl⟩

end Sys2Proof

namespace Sys2Proof.Machine

theorem advance_of_cons {s : State} {e : Input} {rest : List Input} (h : s.inputs = e :: rest) :
    advance s = { s with inputs := rest, tick := s.tick + 1 } := by
  rw [advance, h, List.tail_cons]

/-- The step at a host access that decodes, with rst low: the instruction's meaning (R60, R160). -/
theorem step_host_of_ok {s : State} {a : Access} {rest : List Input} {i : Instr} (hi : s.inputs = .host a :: rest)
    (hr : s.rst = false) (hdec : decodeAccess s.cfg.base a = .ok i) : step s = exec i (advance s) := by
  rw [step_cons hi, agentStep, hostAccess, advance_rst, hr, advance_cfg, hdec]
  rfl

/-- The step at a host access that decodes to an error other than `outside`, with rst low: a bus error (R203). -/
theorem step_host_of_error {s : State} {a : Access} {rest : List Input} {e : AccessError}
    (hi : s.inputs = .host a :: rest) (hr : s.rst = false) (hdec : decodeAccess s.cfg.base a = .error e)
    (he : e ≠ .outside) : step s = .fault (.busError a.addr) := by
  rw [step_cons hi, agentStep, hostAccess, advance_rst, hr, advance_cfg, hdec]
  cases e with
  | outside => exact absurd rfl he
  | _ => rfl

/-- Every command answers a next state: its effect or its refusal (R200). -/
theorem exec_command_answers (c : Command) (s : State) : ∃ t, exec c.toInstr s = .next t := by
  cases c with
  | push b => simp only [Command.toInstr, exec, execPush]; split <;> exact ⟨_, rfl⟩
  | encode | ack | resend | erst | raw => exact guarded_answers _ _ _ _
  | nop | init | clr | clrev => exact ⟨_, rfl⟩

/-- `wr CMD` answers a next state for every word: the access itself completes (R160). -/
theorem exec_wrCmd_answers (w : Word) (s : State) : ∃ t, exec (.wrCmd w) s = .next t := by
  cases hdec : decodeCommand w with
  | error e => exact ⟨_, exec_wrCmd_error hdec s⟩
  | ok c => rw [exec_wrCmd_ok hdec]; exact exec_command_answers c s

/-- An access that decodes completes, a read with its word and a write with its effect or a refusal (R55, R160, R162). -/
theorem exec_decoded_answers {base : Nat} {a : Access} {i : Instr} (h : decodeAccess base a = .ok i) (s : State) :
    ∃ t, exec i s = .next t := by
  obtain ⟨r, -, -, ⟨-, hread⟩ | ⟨-, hwrite⟩⟩ := decodeAccess_ok_cases h
  · obtain ⟨v, hv⟩ := exec_readInstr hread s
    exact ⟨_, hv⟩
  · rcases writeInstr_ok_cases hwrite with ⟨-, rfl⟩ | ⟨-, rfl⟩
    · exact exec_wrCmd_answers a.data s
    · exact ⟨_, rfl⟩

/-- Settles O31, from the step at an access that decodes. -/
theorem stepRunsTheDecodedAccess : Obligations.StepRunsTheDecodedAccess := by
  intro s a rest i hi hr hdec
  rw [step_host_of_ok hi hr hdec, advance_of_cons hi]

/-- Settles O32: an undefined access in the window decodes to an error other than `outside` (O4), and a defined one to an
instruction, which completes. -/
theorem undefinedAccessesAreBusErrors : Obligations.UndefinedAccessesAreBusErrors := by
  intro s a rest hi hr hwin
  obtain ⟨-, hundefined, -⟩ := accessDecodeVerdict s.cfg.base a
  refine ⟨fun hwf => ?_, fun hwf => ?_⟩
  · obtain ⟨e, he, hdec⟩ := hundefined hwin hwf
    exact step_host_of_error hi hr hdec he
  · obtain ⟨i, hdec⟩ := (Access.wf_iff_decodes s.cfg.base a).1 hwf
    rw [step_host_of_ok hi hr hdec]
    exact exec_decoded_answers hdec (advance s)

end Sys2Proof.Machine
end

section
/-! PROOFS. The two decode layers and the encoder agree (30_encoding.md R70 to R79): the round trip, the opcode map as
words and as (match, mask) pairs, and the verdict on every word written to CMD. -/

namespace Sys2Proof

/-- The command an instruction of format C is has that instruction as its own. -/
theorem toInstr_of_command? {i : Instr} {c : Command} (h : i.command? = some c) : c.toInstr = i := by
  cases i <;> cases h <;> rfl

/-- An instruction that is no command is the read or the write row of a register (R78). -/
theorem busRow_of_command?_eq_none {i : Instr} (h : i.command? = none) :
    (∃ r, readInstr r = .ok i) ∨ ∃ v r, writeInstr v r = .ok i := by
  cases i with
  | nop | init | clr | push | encode | ack | resend | erst | clrev | raw => cases h
  | wrCmd v => exact .inr ⟨v, .cmd, rfl⟩
  | wrIen v => exact .inr ⟨v, .ien, rfl⟩
  | rdStatus => exact .inl ⟨.status, rfl⟩
  | rdSeq => exact .inl ⟨.seq, rfl⟩
  | rdStreak => exact .inl ⟨.streak, rfl⟩
  | rdChksum => exact .inl ⟨.chksum, rfl⟩
  | rdCmdlen => exact .inl ⟨.cmdlen, rfl⟩
  | rdFramelen => exact .inl ⟨.framelen, rfl⟩
  | rdTxptr => exact .inl ⟨.txptr, rfl⟩
  | rdIen => exact .inl ⟨.ien, rfl⟩
  | rdErrcause => exact .inl ⟨.errcause, rfl⟩
  | rdErrcmd => exact .inl ⟨.errcmd, rfl⟩
  | rdId => exact .inl ⟨.id, rfl⟩

/-- A bus access decodes to its row, wherever the window is (R78). -/
theorem decodeAccess_encode_of_bus {i : Instr} (h : i.command? = none) (base : Nat) :
    decodeAccess base (encode base i) = .ok i := by
  rcases busRow_of_command?_eq_none h with ⟨r, hrow⟩ | ⟨v, r, hrow⟩
  · rw [(encode_of_readInstr hrow base).2, decodeAccess_read rfl rfl rfl, hrow]
  · rw [(encode_of_writeInstr hrow base).2, decodeAccess_write rfl rfl rfl]
    exact hrow

/-- The access of a command decodes to `wr CMD` of its word (R76). -/
theorem decodeAccess_encode_toInstr (base : Nat) (c : Command) :
    decodeAccess base (encode base c.toInstr) = .ok (.wrCmd (encodeCommand c)) := by
  rw [Machine.encode_toInstr, decodeAccess_writeAccess_cmd]

/-- An access that decodes is its instruction's access, but for the data of a read (R78). -/
theorem encode_of_decodeAccess {base : Nat} {a : Access} {i : Instr} (h : decodeAccess base a = .ok i) :
    i.command? = none ∧ (encode base i).dir = a.dir ∧ (encode base i).addr = a.addr ∧
      (encode base i).size = a.size ∧ (a.dir = .write → encode base i = a) := by
  obtain ⟨r, haddr, hsize, ⟨hdir, hrow⟩ | ⟨hdir, hrow⟩⟩ := decodeAccess_ok_cases h
  · obtain ⟨hbus, henc⟩ := encode_of_readInstr hrow base
    rw [henc, hdir, haddr, hsize]
    exact ⟨hbus, rfl, rfl, rfl, fun hwrite => by cases hwrite⟩
  · obtain ⟨hbus, henc⟩ := encode_of_writeInstr hrow base
    have ha : encode base i = a := henc.trans (eq_writeAccess_of_fields hdir haddr hsize).symm
    rw [ha]
    exact ⟨hbus, rfl, rfl, rfl, fun _ => rfl⟩

/-- Settles O1: format C by the round trip of its word, a bus row by its register, and back by the access's fields. -/
theorem decodeAndEncodeAgree : Obligations.DecodeAndEncodeAgree := by
  refine ⟨fun base i => ?_, fun w c => encodeCommand_of_decodeCommand, fun base a i => encode_of_decodeAccess⟩
  cases hi : i.command? with
  | none => exact decodeAccess_encode_of_bus hi base
  | some c =>
    obtain rfl := toInstr_of_command? hi
    exact ⟨rfl, decodeCommand_encodeCommand c, decodeAccess_encode_toInstr base c⟩

/-- The words that decode to a command are its one word (R72). -/
theorem decodeCommand_eq_ok_iff (w : Word) (c : Command) : decodeCommand w = .ok c ↔ w = encodeCommand c :=
  ⟨fun h => (encodeCommand_of_decodeCommand h).symm, fun h => h ▸ decodeCommand_encodeCommand c⟩

/-- PUSH's word as a number (R72). -/
theorem eq_encodeCommand_push_iff (w : Word) (b : Byte) :
    w = encodeCommand (.push b) ↔ w.toNat = 256 * b.toNat + 3 := by
  have hword : (encodeCommand (.push b)).toNat = 256 * b.toNat + 3 := by revert b; decide
  rw [← BitVec.toNat_inj, hword]

/-- A field that lies under a mask is fixed by the masked word. -/
theorem extractLsb'_of_masked {w mask pattern : Word} (h : w &&& mask = pattern) {start len : Nat}
    (hmask : mask.extractLsb' start len = BitVec.allOnes len) :
    w.extractLsb' start len = pattern.extractLsb' start len := by
  rw [← h, BitVec.extractLsb'_and, hmask, BitVec.and_allOnes]

/-- PUSH's (match, mask) pair fixes every field but the operand (R72). -/
theorem eq_encodeCommand_push_of_masked {w : Word} (h : w &&& 0xFFFF00FF = 0x00000003) :
    w = encodeCommand (.push (imm8Field w)) := by
  have hop : opField w = 3 := extractLsb'_of_masked h rfl
  have hrsv0 : rsv0Field w = 0 := extractLsb'_of_masked h rfl
  have hrsv1 : rsv1Field w = 0 := extractLsb'_of_masked h rfl
  calc w = rsv1Field w ++ imm8Field w ++ rsv0Field w ++ opField w := (word_eq_append_fields w).symm
    _ = encodeCommand (.push (imm8Field w)) := by rw [hop, hrsv0, hrsv1]; rfl

/-- A mask of ones leaves one word (R72). -/
theorem eq_of_masked_by_ones {w pattern : Word} (h : w &&& 0xFFFFFFFF = pattern) : w = pattern :=
  BitVec.and_allOnes.symm.trans h

/-- The (match, mask) pairs of R72 admit the commands' words and no others. -/
theorem legalWord_iff (w : Word) : legalWord w = true ↔ ∃ c, w = encodeCommand c := by
  constructor
  · intro h
    obtain ⟨row, hrow, hadmits⟩ := List.any_eq_true.1 h
    have hmasked : w &&& row.mask = row.pattern := beq_iff_eq.1 hadmits
    fin_cases hrow
    exacts [⟨.nop, eq_of_masked_by_ones hmasked⟩, ⟨.init, eq_of_masked_by_ones hmasked⟩,
      ⟨.clr, eq_of_masked_by_ones hmasked⟩, ⟨.push _, eq_encodeCommand_push_of_masked hmasked⟩,
      ⟨.encode, eq_of_masked_by_ones hmasked⟩, ⟨.ack, eq_of_masked_by_ones hmasked⟩,
      ⟨.resend, eq_of_masked_by_ones hmasked⟩, ⟨.erst, eq_of_masked_by_ones hmasked⟩,
      ⟨.clrev, eq_of_masked_by_ones hmasked⟩, ⟨.raw, eq_of_masked_by_ones hmasked⟩]
  · rintro ⟨c, rfl⟩
    exact Laws.legalWord_encodeCommand c

/-- Settles O2: a legal word is the one word of its command, which is the word the map gives. -/
theorem legalWordsAreTheOpcodeMap : Obligations.LegalWordsAreTheOpcodeMap := by
  refine ⟨fun w c => ?_, fun w => ?_⟩
  · rw [decodeCommand_eq_ok_iff]
    cases c with
    | push b => exact eq_encodeCommand_push_iff w b
    | _ => exact Iff.rfl
  · simp only [decodeCommand_eq_ok_iff, legalWord_iff]

theorem opField_toNat (w : Word) : (opField w).toNat = w.toNat % 16 := by simp [opField]

/-- A field is zero when the number of its bits, taken by division, is (R70). -/
theorem extractLsb'_eq_zero_iff (w : Word) (start len : Nat) :
    w.extractLsb' start len = 0 ↔ w.toNat / 2 ^ start % 2 ^ len = 0 := by
  simp [← BitVec.toNat_inj, Nat.shiftRight_eq_div_pow]

theorem rsv0Field_eq_zero_iff (w : Word) : rsv0Field w = 0 ↔ w.toNat / 16 % 16 = 0 := extractLsb'_eq_zero_iff w 4 4

theorem imm8Field_eq_zero_iff (w : Word) : imm8Field w = 0 ↔ w.toNat / 256 % 256 = 0 := extractLsb'_eq_zero_iff w 8 8

theorem rsv1Field_eq_zero_iff (w : Word) : rsv1Field w = 0 ↔ w.toNat / 65536 = 0 := by
  have hfield : rsv1Field w = 0 ↔ w.toNat / 65536 % 65536 = 0 := extractLsb'_eq_zero_iff w 16 16
  rwa [Nat.mod_eq_of_lt (by omega)] at hfield

theorem opField_eq_three_iff (w : Word) : opField w = 3 ↔ w.toNat % 16 = 3 := by
  rw [← BitVec.toNat_inj, opField_toNat]; rfl

/-- The reserved opcodes are 0xA to 0xF (R72). -/
theorem opcodeCommand_eq_none_iff (op : BitVec 4) (b : Byte) : opcodeCommand op b = none ↔ 0xA ≤ op.toNat := by
  unfold opcodeCommand
  generalize op.toNat = n
  match n with
  | 0 | 1 | 2 | 3 | 4 | 5 | 6 | 7 | 8 | 9 => simp
  | n + 10 => simp

/-- The verdict of the decode, on the word's fields taken by division (R73). -/
theorem decodeCommand_verdict (w : Word) :
    if 0xA ≤ w.toNat % 16 then decodeCommand w = .error .illOp
    else if w.toNat / 16 % 16 ≠ 0 ∨ w.toNat / 65536 ≠ 0 then decodeCommand w = .error .illRsvd
    else if w.toNat % 16 ≠ 3 ∧ w.toNat / 256 % 256 ≠ 0 then decodeCommand w = .error .illRsvd
    else ∃ c, decodeCommand w = .ok c := by
  have hreserved := opcodeCommand_eq_none_iff (opField w) (imm8Field w)
  rw [opField_toNat] at hreserved
  simp only [decodeCommand, ne_eq, opField_eq_three_iff, rsv0Field_eq_zero_iff, imm8Field_eq_zero_iff,
    rsv1Field_eq_zero_iff]
  cases hop : opcodeCommand (opField w) (imm8Field w) with
  | none => rw [if_pos (hreserved.1 hop)]
  | some c =>
    rw [if_neg fun h => by simp [hreserved.2 h] at hop]
    split_ifs
    · rfl
    · rfl
    · exact ⟨c, rfl⟩

end Sys2Proof

namespace Sys2Proof.Machine

/-- Settles O3: `wr CMD` does as the verdict of the decode says (R73, R160). -/
theorem commandDecodeVerdict : Obligations.CommandDecodeVerdict := by
  intro w s
  have hverdict := decodeCommand_verdict w
  split_ifs at hverdict ⊢
  · exact exec_wrCmd_error hverdict s
  · exact exec_wrCmd_error hverdict s
  · exact exec_wrCmd_error hverdict s
  · obtain ⟨c, hc⟩ := hverdict
    exact ⟨c, hc, encodeCommand_of_decodeCommand hc, exec_wrCmd_ok hc s⟩

end Sys2Proof.Machine

namespace Sys2Proof

/-- The table word of a command is read as the command, through its byte lanes (R56, R72). -/
theorem decodeTableWord_encodeCommand (c : Command) :
    decodeTableWord 32 (encodeCommand c).toNat = some c.toInstr := by
  rw [decodeTableWord, if_pos le_rfl, BitVec.ofNat_toNat, BitVec.setWidth_eq, wordOfLanes_lanesOf]
  simp only [decodeCommand_encodeCommand]

/-- Settles O5: the legal words of R79 are the words of their commands; the others run through the decoder. -/
theorem workedEncodingsDecode : Obligations.WorkedEncodingsDecode :=
  ⟨decodeTableWord_encodeCommand (.push 0x47), decodeTableWord_encodeCommand (.push 0x0A),
    decodeTableWord_encodeCommand (.push 0x00), decodeTableWord_encodeCommand .encode,
    by decide, by decide, by decide, by decide, by decide, by decide⟩

end Sys2Proof
end

section
/-! PROOFS. Runs of a schedule: the host's commands one by one, SEND, and a sink that drains the transmitter
(30_encoding.md R76, R77; 44_tx_port.md R171). -/

namespace Sys2Proof.Machine

/-- `s` with the schedule `n` events further on, at `rest` (R60). -/
def consumed (n : Nat) (rest : List Input) (s : State) : State := { s with inputs := rest, tick := s.tick + n }

@[simp] theorem consumed_consumed (m n : Nat) (rest rest' : List Input) (s : State) :
    consumed m rest (consumed n rest' s) = consumed (m + n) rest s := by
  simp [consumed, Nat.add_assoc, Nat.add_comm n]

@[simp] theorem consumed_inputs (n : Nat) (rest : List Input) (s : State) : (consumed n rest s).inputs = rest := rfl
@[simp] theorem consumed_wire (n : Nat) (rest : List Input) (s : State) : (consumed n rest s).wire = s.wire := rfl
@[simp] theorem consumed_seq (n : Nat) (rest : List Input) (s : State) : (consumed n rest s).seq = s.seq := rfl
@[simp] theorem consumed_streak (n : Nat) (rest : List Input) (s : State) : (consumed n rest s).streak = s.streak := rfl
@[simp] theorem consumed_fvalid (n : Nat) (rest : List Input) (s : State) : (consumed n rest s).fvalid = s.fvalid := rfl
@[simp] theorem consumed_chksum (n : Nat) (rest : List Input) (s : State) : (consumed n rest s).chksum = s.chksum := rfl
@[simp] theorem consumed_txbusy (n : Nat) (rest : List Input) (s : State) : (consumed n rest s).txbusy = s.txbusy := rfl
@[simp] theorem consumed_txdone (n : Nat) (rest : List Input) (s : State) : (consumed n rest s).txdone = s.txdone := rfl
@[simp] theorem commandBytes_consumed (n : Nat) (rest : List Input) (s : State) :
    commandBytes (consumed n rest s) = commandBytes s := rfl

/-- The step's own move of the schedule is the move by one event. -/
theorem advance_eq_consumed {s : State} {e : Input} {rest : List Input} (h : s.inputs = e :: rest) :
    advance s = consumed 1 rest s := advance_of_cons h

/-- A run whose next event is a command, rst low, goes on from what the command answers (R60, R76). -/
theorem run_command {k : Nat} {s t : State} {c : Command} {rest : List Input}
    (hi : s.inputs = .host (encode s.cfg.base c.toInstr) :: rest) (hr : s.rst = false)
    (h : exec c.toInstr (consumed 1 rest s) = .next t) : run (k + 1) s = run k t :=
  run_succ_of_next ((step_command (by rw [nextIsCommand, hi]; rfl) hr).trans (advance_eq_consumed hi ▸ h))

/-- The block with an empty command buffer, as CLR leaves it (R105). -/
def emptyBuffer (s : State) : State := { s with cmdlen := 0, cmdtrunc := false }

/-- The block with `c` behind the bytes of the command buffer, as PUSHS c leaves it (R77, R106). -/
def appendBytes (c : Bytes) (s : State) : State :=
  { s with
    cmdbuf := Memory.writeBytes s.cmdbuf s.cmdlen.toNat c
    cmdlen := s.cmdlen + BitVec.ofNat 16 c.length }

@[simp] theorem emptyBuffer_consumed (n : Nat) (rest : List Input) (s : State) :
    emptyBuffer (consumed n rest s) = consumed n rest (emptyBuffer s) := rfl

@[simp] theorem appendBytes_consumed (c : Bytes) (n : Nat) (rest : List Input) (s : State) :
    appendBytes c (consumed n rest s) = consumed n rest (appendBytes c s) := rfl

@[simp] theorem encodeEffect_consumed (n : Nat) (rest : List Input) (s : State) :
    encodeEffect (consumed n rest s) = consumed n rest (encodeEffect s) := rfl

theorem appendBytes_cmdlen_toNat {c : Bytes} {s : State} (h : s.cmdlen.toNat + c.length < 2 ^ 16) :
    (appendBytes c s).cmdlen.toNat = s.cmdlen.toNat + c.length := by
  rw [appendBytes, BitVec.toNat_add, BitVec.toNat_ofNat, Nat.add_mod_mod, Nat.mod_eq_of_lt h]

/-- A byte string is appended byte by byte. -/
theorem appendBytes_cons {b : Byte} {c : Bytes} {s : State} (h : s.cmdlen.toNat + 1 < 2 ^ 16) :
    appendBytes (b :: c) s = appendBytes c (appendBytes [b] s) := by
  have hlen := appendBytes_cmdlen_toNat (c := [b]) h
  rw [appendBytes, appendBytes, hlen]
  simp [appendBytes, Memory.writeBytes, BitVec.add_assoc, ← BitVec.ofNat_add, Nat.add_comm 1]

/-- Behind an empty command buffer, the bytes appended are the command (R25, R105). -/
theorem commandBytes_appendBytes_emptyBuffer {c : Bytes} {s : State} (hwf : Memory.wf s.cmdbuf = true)
    (hlen : c.length < 2 ^ 16) : commandBytes (appendBytes c (emptyBuffer s)) = c := by
  have hcmdlen := appendBytes_cmdlen_toNat (c := c) (s := emptyBuffer s) (by simpa [emptyBuffer] using hlen)
  rw [commandBytes, hcmdlen]
  simpa [emptyBuffer, appendBytes] using Memory.readBytes_writeBytes hwf

/-- PUSH appends its byte while the buffer has room (R106). -/
theorem exec_push_of_room (b : Byte) {s : State} (room : s.cmdlen.toNat < s.cfg.cmdMax) :
    exec (Command.push b).toInstr s = .next (appendBytes [b] s) :=
  if_pos room

/-- ENCODE of a whole command on a quiet block below the threshold has its effect (R107). -/
theorem exec_encode_of_quiet {s : State} (quiet : s.txbusy = false) (below : s.streak ≠ 3)
    (whole : s.cmdtrunc = false) :
    exec Command.encode.toInstr s = .next (encodeEffect s) :=
  guarded_of_unchecked (by simp [encodeChecks, quiet, (rstreq_false_iff s).2 below, whole])

/-- PUSHS c, where c fits, appends c to the command buffer and changes nothing else (R77, R106). -/
theorem run_pushs {s : State} {c : Bytes} {rest : List Input}
    (hi : s.inputs = commandEvents s.cfg.base (pushs c) ++ rest) (hr : s.rst = false)
    (fits : s.cmdlen.toNat + c.length ≤ s.cfg.cmdMax) (hmax : s.cfg.cmdMax < 2 ^ 16) :
    run c.length s = .next (consumed c.length rest (appendBytes c s)) := by
  induction c generalizing s with
  | nil =>
    obtain rfl : s.inputs = rest := hi
    simp [run_zero, consumed, appendBytes, Memory.writeBytes]
  | cons b c ih =>
    rw [List.length_cons] at fits ⊢
    have room : s.cmdlen.toNat < s.cfg.cmdMax := by omega
    have hlen : (appendBytes [b] s).cmdlen.toNat = s.cmdlen.toNat + 1 :=
      appendBytes_cmdlen_toNat (c := [b]) (by rw [List.length_singleton]; omega)
    have hfits : (appendBytes [b] s).cmdlen.toNat + c.length ≤ s.cfg.cmdMax := by omega
    have hpush : run (c.length + 1) s =
        run c.length (consumed 1 (commandEvents s.cfg.base (pushs c) ++ rest) (appendBytes [b] s)) :=
      run_command (c := .push b) hi hr (exec_push_of_room b room)
    rw [hpush, ih (s := consumed 1 _ (appendBytes [b] s)) rfl hr hfits hmax, appendBytes_consumed,
      consumed_consumed, ← appendBytes_cons (by omega)]

/-- PUSHS c and ENCODE on a quiet block below the threshold, where c fits: the frame of the longer command is loaded and
on its way (R77, R106, R107). -/
theorem run_pushs_encode {s : State} {c : Bytes} {rest : List Input}
    (hi : s.inputs = commandEvents s.cfg.base (pushs c) ++ (commandEvents s.cfg.base [.encode] ++ rest))
    (hr : s.rst = false) (quiet : s.txbusy = false) (below : s.streak ≠ 3) (whole : s.cmdtrunc = false)
    (fits : s.cmdlen.toNat + c.length ≤ s.cfg.cmdMax) (hmax : s.cfg.cmdMax < 2 ^ 16) :
    run (c.length + 1) s = .next (consumed (c.length + 1) rest (encodeEffect (appendBytes c s))) := by
  have hencode : run 1 (consumed c.length (commandEvents s.cfg.base [.encode] ++ rest) (appendBytes c s)) =
      run 0 (consumed 1 rest (consumed c.length (commandEvents s.cfg.base [.encode] ++ rest)
        (encodeEffect (appendBytes c s)))) :=
    run_command (c := .encode) rfl hr (exec_encode_of_quiet quiet below whole)
  rw [run_add_of_next (run_pushs hi hr fits hmax), hencode, run_zero, consumed_consumed, Nat.add_comm 1]

/-- The effect of SEND c: the command buffer holds c, and its frame is loaded and on its way (R77). -/
def sendEffect (c : Bytes) (s : State) : State := encodeEffect (appendBytes c (emptyBuffer s))

/-- SEND c on a quiet block below the threshold, where c fits, has its effect (R77, R105 to R107). -/
theorem run_send {s : State} {c : Bytes} {rest : List Input}
    (hi : s.inputs = commandEvents s.cfg.base (send c) ++ rest) (hr : s.rst = false) (quiet : s.txbusy = false)
    (below : s.streak ≠ 3) (fits : c.length ≤ s.cfg.cmdMax) (hmax : s.cfg.cmdMax < 2 ^ 16) :
    run (send c).length s = .next (consumed (send c).length rest (sendEffect c s)) := by
  have hlen : (send c).length = c.length + 1 + 1 := by simp [send, pushs]
  have hinputs : s.inputs = .host (encode s.cfg.base .clr) ::
      (commandEvents s.cfg.base (pushs c) ++ (commandEvents s.cfg.base [.encode] ++ rest)) := by
    rw [hi, ← List.append_assoc, ← commandEvents_append]
    rfl
  have hfits : (emptyBuffer s).cmdlen.toNat + c.length ≤ s.cfg.cmdMax := (Nat.zero_add _).trans_le fits
  rw [hlen, run_command (c := .clr) (t := consumed 1 _ (emptyBuffer s)) hinputs hr rfl,
    run_pushs_encode (s := consumed 1 _ (emptyBuffer s)) rfl hr quiet below rfl hfits hmax,
    appendBytes_consumed, encodeEffect_consumed, consumed_consumed, sendEffect]

/-- The end of the transmission in progress: the pending bytes are on the wire (R171). -/
def drained (s : State) : State :=
  { s with wire := s.wire ++ pendingBytes s, txptr := s.framelen, txbusy := false, txdone := true }

@[simp] theorem drained_consumed (n : Nat) (rest : List Input) (s : State) :
    drained (consumed n rest s) = consumed n rest (drained s) := rfl

@[simp] theorem drained_wire (s : State) : (drained s).wire = s.wire ++ pendingBytes s := rfl
@[simp] theorem drained_seq (s : State) : (drained s).seq = s.seq := rfl
@[simp] theorem drained_streak (s : State) : (drained s).streak = s.streak := rfl
@[simp] theorem drained_fvalid (s : State) : (drained s).fvalid = s.fvalid := rfl
@[simp] theorem drained_chksum (s : State) : (drained s).chksum = s.chksum := rfl
@[simp] theorem drained_txbusy (s : State) : (drained s).txbusy = false := rfl
@[simp] theorem drained_txdone (s : State) : (drained s).txdone = true := rfl
@[simp] theorem commandBytes_drained (s : State) : commandBytes (drained s) = commandBytes s := rfl

theorem txptr_succ_toNat {s : State} (h : s.txptr.toNat < s.framelen.toNat) :
    (s.txptr + 1).toNat = s.txptr.toNat + 1 := by bv_omega

/-- The pending bytes are the one at TXPTR and those behind it (R27). -/
theorem pendingBytes_eq_cons {s : State} (h : s.txptr.toNat < s.framelen.toNat) :
    pendingBytes s = Memory.read s.frame s.txptr.toNat :: pendingBytes { s with txptr := s.txptr + 1 } := by
  simp only [pendingBytes]
  rw [txptr_succ_toNat h, ← Memory.readBytes]
  congr 1
  omega

/-- The last transfer ends the transmission (R171). -/
theorem txTransfer_last {s : State} (h : s.txptr.toNat + 1 = s.framelen.toNat) : txTransfer s = drained s := by
  have hlast : s.txptr + 1 = s.framelen :=
    BitVec.eq_of_toNat_eq ((txptr_succ_toNat (by omega)).trans h)
  rw [txTransfer_eq, if_pos hlast, if_pos hlast, drained, pendingBytes_eq_cons (by omega), hlast]
  simp [pendingBytes, Memory.readBytes]

/-- Any other transfer sends its byte and moves TXPTR on (R171). -/
theorem txTransfer_more {s : State} (h : s.txptr.toNat + 1 < s.framelen.toNat) :
    txTransfer s = { emit (Memory.read s.frame s.txptr.toNat) s with txptr := s.txptr + 1 } := by
  refine if_neg fun hlast => ?_
  have hsucc := txptr_succ_toNat (s := s) (by omega)
  rw [hlast] at hsucc
  omega

/-- The first of several transfers leaves the end of the transmission as it is (R171). -/
theorem drained_txTransfer {s : State} (h : s.txptr.toNat + 1 < s.framelen.toNat) :
    drained (txTransfer s) = drained s := by
  rw [txTransfer_more h, drained, drained, pendingBytes_eq_cons (by omega : s.txptr.toNat < _)]
  simp [pendingBytes]

@[simp] theorem txTransfer_consumed (n : Nat) (rest : List Input) (s : State) :
    txTransfer (consumed n rest s) = consumed n rest (txTransfer s) := by
  rw [txTransfer_eq, txTransfer_eq]
  rfl

/-- The step at an offer of the sink during a transmission is a transfer (R171). -/
theorem step_sinkReady_of_busy {s : State} {rest : List Input} (hi : s.inputs = .sinkReady :: rest)
    (busy : s.txbusy = true) : step s = .next (consumed 1 rest (txTransfer s)) := by
  rw [step_cons hi, advance_eq_consumed hi, ← txTransfer_consumed]
  exact congrArg _ (if_pos busy)

/-- As many offers of the sink as bytes are pending end the transmission (R171, R172). -/
theorem run_drain {s : State} {n : Nat} {rest : List Input} (busy : s.txbusy = true)
    (hn : s.txptr.toNat + (n + 1) = s.framelen.toNat) (hi : s.inputs = txEvents (n + 1) ++ rest) :
    run (n + 1) s = .next (consumed (n + 1) rest (drained s)) := by
  induction n generalizing s with
  | zero => rw [run_succ_of_next (step_sinkReady_of_busy hi busy), run_zero, txTransfer_last hn]; rfl
  | succ n ih =>
    have hmore : s.txptr.toNat + 1 < s.framelen.toNat := by omega
    have hsucc := txptr_succ_toNat (s := s) (by omega)
    have htransfer := txTransfer_more hmore
    have hstep : run (n + 1 + 1) s = run (n + 1) (consumed 1 (txEvents (n + 1) ++ rest) (txTransfer s)) :=
      run_succ_of_next (step_sinkReady_of_busy hi busy)
    rw [hstep, ih (s := consumed 1 _ (txTransfer s)) ?_ ?_ rfl, drained_consumed, consumed_consumed,
      drained_txTransfer hmore]
    · rw [htransfer]; exact busy
    · rw [htransfer]; show (s.txptr + 1).toNat + (n + 1) = s.framelen.toNat; omega

/-- At the start of a transmission the whole of FRAME is pending (R27). -/
theorem pendingBytes_of_txptr_zero {s : State} (h : s.txptr = 0) : pendingBytes s = loadedFrame s := by
  simp [pendingBytes, loadedFrame, h]

@[simp] theorem sendEffect_seq (c : Bytes) (s : State) : (sendEffect c s).seq = s.seq := rfl
@[simp] theorem sendEffect_streak (c : Bytes) (s : State) : (sendEffect c s).streak = s.streak := rfl
@[simp] theorem sendEffect_txptr (c : Bytes) (s : State) : (sendEffect c s).txptr = 0 := rfl
@[simp] theorem sendEffect_txbusy (c : Bytes) (s : State) : (sendEffect c s).txbusy = true := rfl
@[simp] theorem sendEffect_fvalid (c : Bytes) (s : State) : (sendEffect c s).fvalid = true := rfl
@[simp] theorem sendEffect_wire (c : Bytes) (s : State) : (sendEffect c s).wire = s.wire := rfl

/-- What SEND c leaves from a state with the invariant, where c fits: c in the command buffer, its frame to be sent, and
the checksum of the frame (R102, R103, R107). -/
theorem sendEffect_loads {s : State} {c : Bytes} (hinv : BlockInv s) (fits : c.length ≤ s.cfg.cmdMax) :
    commandBytes (sendEffect c s) = c ∧ (sendEffect c s).framelen.toNat = (frameBytes s.seq c).length ∧
      pendingBytes (sendEffect c s) = frameBytes s.seq c ∧ (sendEffect c s).chksum = xorfold (payload s.seq c) := by
  have hmax : s.cfg.cmdMax + 17 < 2 ^ 16 := Config.frameMax_lt_of_wf hinv.params
  have hlen : (frameBytes s.seq c).length < 2 ^ 16 := by have := frameBytes_length_le s.seq c; omega
  have hcommand : commandBytes (appendBytes c (emptyBuffer s)) = c :=
    commandBytes_appendBytes_emptyBuffer hinv.cmdbuf_ok.1 (by omega)
  have hsend : sendEffect c s = { transmit (frameBytes s.seq c) (appendBytes c (emptyBuffer s)) with
      chksum := xorfold (payload s.seq c), fvalid := true } := by
    rw [sendEffect, encodeEffect, hcommand]
    rfl
  rw [pendingBytes_of_txptr_zero (sendEffect_txptr c s), hsend]
  exact ⟨hcommand, transmit_framelen_toNat (appendBytes c (emptyBuffer s)) hlen,
    loadedFrame_transmit (s := appendBytes c (emptyBuffer s)) hinv.frame_ok.1 hlen, rfl⟩

/-- Settles O51: SEND loads the frame of c, and the drain puts it on the wire. -/
theorem sendTransmitsTheFrame : Obligations.SendTransmitsTheFrame := by
  intro s c rest hinv hr quiet below fits hi
  obtain ⟨hcommand, hframelen, hpending, hchksum⟩ := sendEffect_loads hinv fits
  have hmax : s.cfg.cmdMax < 2 ^ 16 := (Nat.le_add_right _ 17).trans_lt (Config.frameMax_lt_of_wf hinv.params)
  have hsend := run_send (hi.trans (List.append_assoc ..)) hr quiet below fits hmax
  obtain ⟨n, hn⟩ := Nat.exists_eq_succ_of_ne_zero (frameBytes_length_pos s.seq c).ne'
  rw [hn] at hsend hframelen ⊢
  have hdrain := run_drain (s := consumed (send c).length (txEvents (n + 1) ++ rest) (sendEffect c s))
    (sendEffect_txbusy c s) ((Nat.zero_add _).trans hframelen.symm) rfl
  refine ⟨_, (run_add_of_next hsend).trans hdrain, ?_⟩
  simp [hcommand, hpending, hchksum]

end Sys2Proof.Machine
end

section
/-! PROOFS. The pure functions of the frame encoder (40_frame_encoder.md R100 to R104): the checksum as a fold in any order,
the decimal rendering, and the bytes of a frame. -/

namespace Sys2Proof.Machine

@[simp] theorem xorfold_nil : xorfold [] = 0 := rfl

@[simp] theorem xorfold_singleton (b : Byte) : xorfold [b] = b := BitVec.zero_xor

/-- The fold goes on from the checksum of what came before (R104 item 3). -/
theorem xorfold_append (a b : Bytes) : xorfold (a ++ b) = xorfold a ^^^ xorfold b :=
  calc xorfold (a ++ b) = b.foldl (· ^^^ ·) (xorfold a ^^^ 0) := by
        rw [show xorfold a ^^^ 0 = xorfold a from BitVec.xor_zero]
        exact List.foldl_append
    _ = xorfold a ^^^ xorfold b := List.foldl_assoc

/-- The fixed bytes of a payload, `N` and the space, fold to 0x6E (R102). -/
theorem xorfold_payload (seq : Word) (c : Bytes) :
    xorfold (payload seq c) = 0x6E ^^^ xorfold (dec seq) ^^^ xorfold c := by
  have hfixed : charN ^^^ charSpace = 0x6E := rfl
  simp only [payload, xorfold_append, xorfold_singleton, ← hfixed]
  ac_rfl

/-- Settles O7: the concatenation law, applied to the four parts of a payload. -/
theorem xorfoldOfConcatenation : Obligations.XorfoldOfConcatenation :=
  ⟨xorfold_nil, xorfold_singleton, xorfold_append, xorfold_payload⟩

/-- Settles O8: exclusive or is commutative and associative, so its fold sees a string only up to permutation. -/
theorem xorfoldIsOrderIndependent : Obligations.XorfoldIsOrderIndependent :=
  fun _ _ h => h.foldl_op_eq

/-- A byte is an ASCII digit (R101). -/
def IsDigit (b : Byte) : Prop := 0x30 ≤ b.toNat ∧ b.toNat ≤ 0x39

theorem digit_toNat (n : Nat) : (digit n).toNat = 0x30 + n % 10 := by
  rw [digit, BitVec.toNat_ofNat]
  omega

theorem digit_isDigit (n : Nat) : IsDigit (digit n) := by
  rw [IsDigit, digit_toNat]
  omega

theorem digit_mod_ten (n : Nat) : digit (n % 10) = digit n := by
  rw [digit, digit, Nat.mod_mod]

theorem digitsValue_concat (s : Bytes) (b : Byte) : digitsValue (s ++ [b]) = 10 * digitsValue s + (b.toNat - 0x30) := by
  simp [digitsValue]

/-- With enough turns, the loop of R101 puts the decimal digits of its value in front, most significant first. -/
theorem decLoop_eq_digits {fuel n : Nat} (hn : n < 10 ^ fuel) (acc : Bytes) :
    decLoop fuel n acc = (Nat.digits 10 n).reverse.map digit ++ acc := by
  induction fuel generalizing n acc with
  | zero =>
    obtain rfl : n = 0 := by simpa using hn
    simp [decLoop]
  | succ fuel ih =>
    rw [decLoop]
    split
    next h => simp [h]
    next h =>
      rw [ih (by omega), Nat.digits_def' (by omega) (Nat.pos_of_ne_zero h)]
      simp [digit_mod_ten]

/-- Ten turns are enough for every 32-bit value but 0, which has a digit of its own (R101). -/
theorem dec_eq_digits {n : Word} (hn : n ≠ 0) : dec n = (Nat.digits 10 n.toNat).reverse.map digit := by
  rw [dec, if_neg hn, decLoop_eq_digits (by omega), List.append_nil]

theorem dec_zero : dec 0 = [0x30] := rfl

theorem digits_toNat_ne_nil {n : Word} (hn : n ≠ 0) : Nat.digits 10 n.toNat ≠ [] :=
  Nat.digits_ne_nil_iff_ne_zero.2 (BitVec.toNat_ne.1 hn)

/-- Reading the rendered digits, most significant first, gives the value of the digits. -/
theorem digitsValue_map_digit {l : List Nat} (hl : ∀ d ∈ l, d < 10) :
    digitsValue (l.reverse.map digit) = Nat.ofDigits 10 l := by
  induction l with
  | nil => rfl
  | cons d l ih =>
    obtain ⟨hd, hl⟩ := List.forall_mem_cons.1 hl
    rw [List.reverse_cons, List.map_append, List.map_singleton, digitsValue_concat, ih hl, digit_toNat,
      Nat.ofDigits_cons, Nat.mod_eq_of_lt hd]
    omega

/-- dec renders its value (R101). -/
theorem digitsValue_dec (n : Word) : digitsValue (dec n) = n.toNat := by
  by_cases hn : n = 0
  · subst hn; rfl
  · rw [dec_eq_digits hn, digitsValue_map_digit fun _ => Nat.digits_lt_base (by omega), Nat.ofDigits_digits]

theorem dec_injective : Function.Injective dec := fun n n' h =>
  BitVec.eq_of_toNat_eq (by rw [← digitsValue_dec n, h, digitsValue_dec])

theorem isDigit_of_mem_dec {n : Word} {b : Byte} (hb : b ∈ dec n) : IsDigit b := by
  by_cases hn : n = 0
  · rw [hn, dec_zero, List.mem_singleton] at hb
    exact hb ▸ digit_isDigit 0
  · rw [dec_eq_digits hn] at hb
    obtain ⟨d, -, rfl⟩ := List.mem_map.1 hb
    exact digit_isDigit d

theorem dec_ne_nil (n : Word) : dec n ≠ [] := by
  by_cases hn : n = 0
  · rw [hn, dec_zero]
    exact List.cons_ne_nil _ _
  · simpa [dec_eq_digits hn] using digits_toNat_ne_nil hn

/-- The first digit of a value other than 0 is not 0 (R101). -/
theorem dec_head?_ne_zero {n : Word} (hn : n ≠ 0) : (dec n).head? ≠ some 0x30 := by
  have hdigits := digits_toNat_ne_nil hn
  have hlast := Nat.getLast_digit_ne_zero 10 (BitVec.toNat_ne.1 hn)
  have hlt : (Nat.digits 10 n.toNat).getLast hdigits < 10 :=
    Nat.digits_lt_base (by omega) (List.getLast_mem hdigits)
  rw [dec_eq_digits hn, List.head?_map, List.head?_reverse, List.getLast?_eq_some_getLast hdigits]
  intro h
  have hzero := congrArg BitVec.toNat (Option.some.inj h)
  rw [digit_toNat, Nat.mod_eq_of_lt hlt] at hzero
  exact hlast (Nat.add_left_cancel hzero)

/-- Settles O9: dec is the list of the decimal digits, whose last (most significant) one is not 0. -/
theorem decRendersTheValue : Obligations.DecRendersTheValue := fun n =>
  ⟨digitsValue_dec n, fun _ => isDigit_of_mem_dec,
    fun hhead => by
      by_cases hn : n = 0
      · rw [hn, dec_zero]
      · exact absurd hhead (dec_head?_ne_zero hn),
    List.length_pos_iff.2 (dec_ne_nil n), dec_length_le_ten n, fun hn => dec_length_le (by omega) (by omega)⟩

/-- The fields of a frame, in the order they are sent (R102, R103). -/
theorem frameBytes_eq_fields (seq : Word) (c : Bytes) :
    frameBytes seq c = charN :: (dec seq ++ charSpace ::
      (c ++ charStar :: (dec ((xorfold (payload seq c)).setWidth 32) ++ [charLF]))) := by
  simp [frameBytes, payload]

/-- Settles O10: the definition of a frame, its character codes and its checksum written out. -/
theorem frameLayout : Obligations.FrameLayout := by
  intro seq c
  have hpayload : payload seq c = 0x4E :: dec seq ++ 0x20 :: c := by simp [payload, charN, charSpace]
  rw [frameBytes, ← hpayload, BitVec.ofNat_toNat]
  simp [charStar, charLF]

theorem frameBytes_length (seq : Word) (c : Bytes) :
    (frameBytes seq c).length =
      4 + (dec seq).length + c.length + (dec ((xorfold (payload seq c)).setWidth 32)).length := by
  simp only [frameBytes_eq_fields, List.length_cons, List.length_append, List.length_nil]
  omega

/-- Settles O11: four fixed bytes, at least a digit in either number, and the digit bounds of R101. -/
theorem frameLength : Obligations.FrameLength := by
  intro seq c
  have hseq := List.length_pos_iff.2 (dec_ne_nil seq)
  have hsum := List.length_pos_iff.2 (dec_ne_nil ((xorfold (payload seq c)).setWidth 32))
  have hlen := frameBytes_length seq c
  rw [BitVec.ofNat_toNat]
  exact ⟨hlen, by omega, frameBytes_length_le seq c⟩

/-- A byte string splits in one way at its first separator. -/
theorem eq_of_append_cons_of_notMem_left {a : Byte} {x x' z z' : Bytes} (hx : a ∉ x) (hx' : a ∉ x')
    (h : x ++ a :: z = x' ++ a :: z') : x = x' ∧ z = z' := by
  induction x generalizing x' with
  | nil =>
    cases x' with
    | nil => exact ⟨rfl, (List.cons.inj h).2⟩
    | cons b x' => exact absurd (List.mem_cons.2 (.inl (List.cons.inj h).1)) hx'
  | cons b x ih =>
    cases x' with
    | nil => exact absurd (List.mem_cons.2 (.inl (List.cons.inj h).1.symm)) hx
    | cons b' x' =>
      obtain ⟨rfl, htail⟩ := List.cons.inj h
      obtain ⟨rfl, hz⟩ := ih (fun hm => hx (.tail _ hm)) (fun hm => hx' (.tail _ hm)) htail
      exact ⟨rfl, hz⟩

/-- A byte string splits in one way at its last separator. -/
theorem eq_of_append_cons_of_notMem_right {a : Byte} {x x' z z' : Bytes} (hz : a ∉ z) (hz' : a ∉ z')
    (h : x ++ a :: z = x' ++ a :: z') : x = x' ∧ z = z' := by
  have hrev : z.reverse ++ a :: x.reverse = z'.reverse ++ a :: x'.reverse := by
    simpa using congrArg List.reverse h
  obtain ⟨hzz, hxx⟩ := eq_of_append_cons_of_notMem_left (mt List.mem_reverse.1 hz) (mt List.mem_reverse.1 hz') hrev
  exact ⟨List.reverse_injective hxx, List.reverse_injective hzz⟩

/-- A byte below the ASCII digits stands in no number (R101). -/
theorem notMem_dec_of_lt {b : Byte} (hb : b.toNat < 0x30) (n : Word) : b ∉ dec n := fun hmem =>
  absurd (isDigit_of_mem_dec hmem).1 (Nat.not_le.2 hb)

theorem charSpace_notMem_dec (n : Word) : charSpace ∉ dec n := notMem_dec_of_lt (by decide) n

theorem charStar_notMem_dec_append_lf (n : Word) : charStar ∉ dec n ++ [charLF] :=
  List.not_mem_append (notMem_dec_of_lt (by decide) n) (by decide)

/-- Settles O12: the first space of a frame ends its sequence number and its last asterisk ends its command, whatever
bytes the command holds. -/
theorem frameDeterminesSequenceAndCommand : Obligations.FrameDeterminesSequenceAndCommand := by
  intro n n' c c' h
  rw [frameBytes_eq_fields, frameBytes_eq_fields] at h
  obtain ⟨hdec, hrest⟩ :=
    eq_of_append_cons_of_notMem_left (charSpace_notMem_dec n) (charSpace_notMem_dec n') (List.cons.inj h).2
  obtain ⟨hc, -⟩ :=
    eq_of_append_cons_of_notMem_right (charStar_notMem_dec_append_lf _) (charStar_notMem_dec_append_lf _) hrest
  exact ⟨dec_injective hdec, hc⟩

end Sys2Proof.Machine
end

section
/-! PROOFS. The commands of the frame encoder: CLR, PUSH, ENCODE and RAW (40_frame_encoder.md R105 to R108). -/

namespace Sys2Proof.Machine

/-- Settles O15: CLR has no check and one effect. -/
theorem clrEmptiesTheCommandBuffer : Obligations.ClrEmptiesTheCommandBuffer :=
  ⟨decodeCommand_encodeCommand .clr, fun _ => rfl⟩

/-- The byte PUSH appends becomes the last one of the command (R25, R106). -/
theorem commandBytes_appendBytes_singleton {b : Byte} {s : State} (hwf : Memory.wf s.cmdbuf = true)
    (hlen : s.cmdlen.toNat + 1 < 2 ^ 16) : commandBytes (appendBytes [b] s) = commandBytes s ++ [b] := by
  rw [commandBytes, appendBytes_cmdlen_toNat hlen]
  simpa [appendBytes, commandBytes, Memory.writeBytes] using
    Memory.readBytes_write_end (i := 0) (n := s.cmdlen.toNat) (b := b) hwf

/-- Settles O16: with room PUSH is one write behind the command; without room only CMDTRUNC changes. -/
theorem pushAppendsOrDrops : Obligations.PushAppendsOrDrops := by
  refine ⟨fun b => ?_, fun b s params hwf => ⟨fun room => ?_, fun full => if_neg full⟩⟩
  · rw [decodeCommand_eq_ok_iff, eq_encodeCommand_push_iff, BitVec.toNat_ofNat]
    omega
  · have hmax : s.cfg.cmdMax + 17 < 2 ^ 16 := Config.frameMax_lt_of_wf params
    have hlen : s.cmdlen.toNat + 1 < 2 ^ 16 := by omega
    exact ⟨appendBytes [b] s, exec_push_of_room b room, appendBytes_cmdlen_toNat (c := [b]) hlen,
      Memory.read_write_same hwf, fun i hi => Memory.read_write_other hi,
      commandBytes_appendBytes_singleton hwf hlen, rfl⟩

/-- A command one of whose checks applies is refused with the first such cause (R200, R202). -/
theorem guarded_of_firstCause {l : List (Bool × Cause)} {k : Cause} {w : Word} {e s : State}
    (h : firstCause l = some k) : guarded l w e s = .next (refuse k w s) := by
  rw [guarded, h]

/-- A load leaves FRAME beyond its bytes alone (R107, R108). -/
theorem read_frame_transmit_of_le {f : Bytes} {i : Nat} (s : State) (hi : f.length ≤ i) :
    Memory.read (transmit f s).frame i = Memory.read s.frame i := by
  rw [transmit_frame, Memory.read_writeBytes_outside (.inr (by omega))]

/-- The frame of a command within CMD_MAX fits FRAMELEN (R7). -/
theorem frameBytes_commandBytes_length_lt {s : State} (params : s.cfg.wf = true)
    (fits : s.cmdlen.toNat ≤ s.cfg.cmdMax) : (frameBytes s.seq (commandBytes s)).length < 2 ^ 16 :=
  calc (frameBytes s.seq (commandBytes s)).length ≤ (commandBytes s).length + 17 := frameBytes_length_le _ _
    _ ≤ s.cfg.frameMax := by rw [commandBytes_length]; exact Nat.add_le_add_right fits 17
    _ < 2 ^ 16 := Config.frameMax_lt_of_wf params

/-- Settles O17: the checks in their order, and past them the load of the frame. -/
theorem encodeBuildsTheFrame : Obligations.EncodeBuildsTheFrame := by
  refine ⟨decodeCommand_encodeCommand .encode, fun s params fits hwf => ?_⟩
  have hlen := frameBytes_commandBytes_length_lt params fits
  split_ifs with busy pend trunc
  · exact guarded_of_firstCause (l := encodeChecks s) (by simp [encodeChecks, busy])
  · exact guarded_of_firstCause (l := encodeChecks s) (by simp [encodeChecks, busy, (rstreq_iff s).2 pend])
  · exact guarded_of_firstCause (l := encodeChecks s)
      (by simp [encodeChecks, busy, (rstreq_false_iff s).2 pend, trunc])
  · exact ⟨encodeEffect s,
      exec_encode_of_quiet (Bool.eq_false_of_not_eq_true busy) pend (Bool.eq_false_of_not_eq_true trunc),
      loadedFrame_transmit hwf hlen, transmit_framelen_toNat s hlen, fun _ => read_frame_transmit_of_le s,
      rfl, rfl, rfl, rfl, rfl, rfl⟩

/-- RAW of a whole command on a quiet block has its effect at any STREAK (R108). -/
theorem exec_raw_of_quiet {s : State} (quiet : s.txbusy = false) (whole : s.cmdtrunc = false) :
    exec .raw s = .next (rawEffect s) :=
  guarded_of_unchecked (by simp [rawChecks, quiet, whole])

/-- Settles O18: the checks in their order, and past them the load of the unframed line. -/
theorem rawSendsTheUnframedLine : Obligations.RawSendsTheUnframedLine := by
  refine ⟨decodeCommand_encodeCommand .raw, fun s params fits hwf => ?_⟩
  have hline : (rawLine (commandBytes s)).length = s.cmdlen.toNat + 1 := by rw [rawLine_length, commandBytes_length]
  have hmax : s.cfg.cmdMax + 17 < 2 ^ 16 := Config.frameMax_lt_of_wf params
  have hlen : (rawLine (commandBytes s)).length < 2 ^ 16 := by omega
  split_ifs with busy trunc
  · exact guarded_of_firstCause (l := rawChecks s) (by simp [rawChecks, busy])
  · exact guarded_of_firstCause (l := rawChecks s) (by simp [rawChecks, busy, trunc])
  · exact ⟨rawEffect s, exec_raw_of_quiet (Bool.eq_false_of_not_eq_true busy) (Bool.eq_false_of_not_eq_true trunc),
      loadedFrame_transmit hwf hlen, (transmit_framelen_toNat s hlen).trans hline,
      fun _ hi => read_frame_transmit_of_le s (hline.trans_le hi), rfl, rfl, rfl, rfl, rfl⟩

end Sys2Proof.Machine
end

section
/-! PROOFS. The sequence number and the resend streak: ACK, RESEND and ERST, and what runs make of them
(41_sequence_resend.md R120 to R124). -/

namespace Sys2Proof.Machine

/-- Settles O21: BUSY is the only check of ERST. -/
theorem erstRenumbers : Obligations.ErstRenumbers := by
  refine ⟨decodeCommand_encodeCommand .erst, fun s => ?_⟩
  split_ifs with busy
  · exact guarded_of_firstCause (l := [(s.txbusy, .busy)]) (by simp [busy])
  · exact guarded_of_unchecked (by simp [busy])

/-- The checks ACK and RESEND share, in their order: a refusal with the first that applies, else the effect (R120, R121,
R202). -/
theorem guarded_verdictChecks (w : Word) (e s : State) :
    guarded (verdictChecks s) w e s =
      if s.txbusy = true then .next (refuse .busy w s)
      else if s.streak = 3 then .next (refuse .rstPend w s)
      else if s.fvalid = false then .next (refuse .noFrame w s)
      else .next e := by
  split_ifs with busy pend unheld
  · exact guarded_of_firstCause (by simp [verdictChecks, busy])
  · exact guarded_of_firstCause (by simp [verdictChecks, busy, (rstreq_iff s).2 pend])
  · exact guarded_of_firstCause (by simp [verdictChecks, busy, (rstreq_false_iff s).2 pend, unheld])
  · exact guarded_of_unchecked (by simp [verdictChecks, busy, (rstreq_false_iff s).2 pend, unheld])

/-- SEQWRAP records the ACK of the largest SEQ (R120). -/
theorem ackEffect_seqwrap (s : State) :
    (ackEffect s).seqwrap = if s.seq = 0xFFFFFFFF then true else s.seqwrap := by
  show (s.seqwrap || s.seq == 0xFFFFFFFF) = _
  split_ifs with hmax
  · rw [beq_iff_eq.2 hmax, Bool.or_true]
  · rw [beq_eq_false_iff_ne.2 hmax, Bool.or_false]

/-- Settles O19: the shared checks, and past them the fields ACK moves. -/
theorem ackAdvancesTheSequence : Obligations.AckAdvancesTheSequence := by
  refine ⟨decodeCommand_encodeCommand .ack, fun s => ?_⟩
  have hack : exec .ack s = _ := guarded_verdictChecks (encodeCommand .ack) (ackEffect s) s
  split_ifs at hack with busy pend unheld
  · rwa [if_pos busy]
  · rwa [if_neg busy, if_pos pend]
  · rwa [if_neg busy, if_neg pend, if_pos unheld]
  · rw [if_neg busy, if_neg pend, if_neg unheld]
    exact ⟨ackEffect s, hack, BitVec.toNat_add s.seq 1, rfl, rfl, ackEffect_seqwrap s, rfl⟩

/-- The state after a RESEND below the threshold: counted, and the frame on its way again (R121). -/
def replayed (s : State) : State := replay { s with streak := s.streak + 1 }

/-- The state after a RESEND that reaches the threshold: counted, and nothing sent (R121). -/
def counted (s : State) : State := { s with streak := s.streak + 1 }

@[simp] theorem replayed_consumed (n : Nat) (rest : List Input) (s : State) :
    replayed (consumed n rest s) = consumed n rest (replayed s) := rfl

@[simp] theorem counted_consumed (n : Nat) (rest : List Input) (s : State) :
    counted (consumed n rest s) = consumed n rest (counted s) := rfl

@[simp] theorem counted_streak (s : State) : (counted s).streak = s.streak + 1 := rfl
@[simp] theorem counted_wire (s : State) : (counted s).wire = s.wire := rfl
@[simp] theorem counted_seq (s : State) : (counted s).seq = s.seq := rfl
@[simp] theorem counted_fvalid (s : State) : (counted s).fvalid = s.fvalid := rfl
@[simp] theorem counted_txbusy (s : State) : (counted s).txbusy = s.txbusy := rfl

/-- RESEND sends again exactly while the streak it reaches is below 3 (R121). -/
theorem resendEffect_eq {s : State} (below : s.streak ≠ 3) :
    resendEffect s = if s.streak.toNat + 1 < 3 then replayed s else counted s := by
  have hlt : s.streak + 1 < rsThresh ↔ s.streak.toNat + 1 < 3 := by
    rw [BitVec.lt_def, streak_succ_toNat below]; rfl
  simp only [resendEffect, hlt, replayed, counted]

/-- The third RESEND of a frame reaches the threshold (R121). -/
theorem counted_streak_of_third {s : State} (below : s.streak ≠ 3) (third : ¬ s.streak.toNat + 1 < 3) :
    (counted s).streak = 3 := by
  have hsucc : (counted s).streak.toNat = s.streak.toNat + 1 := streak_succ_toNat below
  bv_omega

/-- Settles O20: the shared checks, and past them the two effects of RESEND. -/
theorem resendCountsAndReplays : Obligations.ResendCountsAndReplays := by
  refine ⟨decodeCommand_encodeCommand .resend, fun s => ?_⟩
  have hresend : exec .resend s = _ := guarded_verdictChecks (encodeCommand .resend) (resendEffect s) s
  split_ifs at hresend ⊢ with busy pend unheld sends
  · exact hresend
  · exact hresend
  · exact hresend
  · rw [resendEffect_eq pend, if_pos sends] at hresend
    exact ⟨replayed s, hresend, streak_succ_toNat pend, rfl, rfl, rfl, rfl⟩
  · rw [resendEffect_eq pend, if_neg sends] at hresend
    have hthree := counted_streak_of_third pend sends
    exact ⟨counted s, hresend, hthree, (rstreq_iff _).2 hthree, rfl⟩

/-! ## Three RESENDs of one frame (R123) -/

/-- The state after a RESEND below the threshold and the drain of what it sends (R121, R171). -/
def resent (s : State) : State := drained (replayed s)

@[simp] theorem resent_consumed (n : Nat) (rest : List Input) (s : State) :
    resent (consumed n rest s) = consumed n rest (resent s) := rfl

@[simp] theorem resent_streak (s : State) : (resent s).streak = s.streak + 1 := rfl
@[simp] theorem resent_seq (s : State) : (resent s).seq = s.seq := rfl
@[simp] theorem resent_fvalid (s : State) : (resent s).fvalid = s.fvalid := rfl
@[simp] theorem resent_txbusy (s : State) : (resent s).txbusy = false := rfl
@[simp] theorem loadedFrame_resent (s : State) : loadedFrame (resent s) = loadedFrame s := rfl

/-- A RESEND below the threshold, drained, puts the loaded frame on the wire once more (R121, R171). -/
@[simp] theorem resent_wire (s : State) : (resent s).wire = s.wire ++ loadedFrame s :=
  congrArg (s.wire ++ ·) (pendingBytes_of_txptr_zero (s := replayed s) rfl)

/-- RESEND of a held frame on a quiet block below the threshold has its effect (R121). -/
theorem exec_resend_of_held {s : State} (quiet : s.txbusy = false) (below : s.streak ≠ 3) (held : s.fvalid = true) :
    exec Command.resend.toInstr s = .next (if s.streak.toNat + 1 < 3 then replayed s else counted s) := by
  have hresend : exec .resend s = _ := guarded_verdictChecks (encodeCommand .resend) (resendEffect s) s
  rwa [if_neg (by simp [quiet]), if_neg below, if_neg (by simp [held]), resendEffect_eq below] at hresend

/-- A RESEND below the threshold, and a sink that takes the whole frame (R121, R171). -/
theorem run_resend_drain {s : State} {n : Nat} {rest : List Input} (hn : s.framelen.toNat = n + 1)
    (hi : s.inputs = commandEvents s.cfg.base [.resend] ++ (txEvents (n + 1) ++ rest)) (hr : s.rst = false)
    (quiet : s.txbusy = false) (held : s.fvalid = true) (sends : s.streak.toNat + 1 < 3) :
    run (n + 1 + 1) s = .next (consumed (n + 1 + 1) rest (resent s)) := by
  have below : s.streak ≠ 3 := fun h => absurd (h ▸ sends) (by decide)
  have hexec := exec_resend_of_held (s := consumed 1 (txEvents (n + 1) ++ rest) s) quiet below held
  rw [consumed_streak, if_pos sends, replayed_consumed] at hexec
  rw [run_command (c := .resend) hi hr hexec,
    run_drain (s := consumed 1 _ (replayed s)) rfl ((Nat.zero_add _).trans hn.symm) rfl,
    drained_consumed, consumed_consumed, resent]

/-- The RESEND that reaches the threshold (R121). -/
theorem run_resend_of_third {s : State} {rest : List Input} (hi : s.inputs = commandEvents s.cfg.base [.resend] ++ rest)
    (hr : s.rst = false) (quiet : s.txbusy = false) (held : s.fvalid = true) (below : s.streak ≠ 3)
    (third : ¬ s.streak.toNat + 1 < 3) : run 1 s = .next (consumed 1 rest (counted s)) := by
  have hexec := exec_resend_of_held (s := consumed 1 rest s) quiet below held
  rw [consumed_streak, if_neg third, counted_consumed] at hexec
  rw [run_command (c := .resend) hi hr hexec, run_zero]

/-- Settles O52: two RESENDs, each drained, and the third on the state they leave. -/
theorem resendEscalation : Obligations.ResendEscalation := by
  intro s rest hinv hr held hstreak quiet hi
  obtain ⟨n, hn⟩ := Nat.exists_eq_add_one.2 (framelen_pos_of_holdsFrameOfSeq (hinv.held held))
  have hsteps : 2 * (n + 1) + 3 = (n + 1 + 1) + ((n + 1 + 1) + 1) := by omega
  rw [hn] at hi ⊢
  simp only [List.append_assoc] at hi
  rw [hsteps, run_add_of_next (run_resend_drain hn hi hr quiet held (by simp [hstreak])),
    run_add_of_next (run_resend_drain (s := consumed _ _ (resent s)) hn rfl hr rfl held (by simp [hstreak])),
    resent_consumed, consumed_consumed,
    run_resend_of_third (s := consumed _ _ (resent (resent s))) rfl hr rfl held (by simp [hstreak])
      (by simp [hstreak]),
    counted_consumed]
  refine ⟨_, rfl, ?_⟩
  simp [rstreq_iff, hstreak, held]

/-! ## SEQ along a run (R124) -/

/-- A step moves the schedule on by one event. -/
theorem StepEffect.inputs {s t : State} (h : StepEffect s t) : t.inputs = s.inputs.tail := by
  cases h <;> rfl

/-- No step changes the parameters. -/
theorem StepEffect.cfg {s t : State} (h : StepEffect s t) : t.cfg = s.cfg := by
  cases h <;> rfl

/-- The first of several steps counts for itself, and the others from its state on. -/
theorem ackCount_succ_of_next {k : Nat} {s t : State} (h : step s = .next t) :
    ackCount (k + 1) s = (if acceptsAck s then 1 else 0) + ackCount k t := by
  rw [ackCount, h]

/-- A schedule without ERST, INIT and reset has none of them next. -/
theorem not_next_of_not_renumbers {s : State} (hno : ∀ e ∈ s.inputs, Input.renumbers s.cfg.base e = false) :
    ¬ (nextIsCommand s .erst ∨ nextIsCommand s .init ∨ nextIsReset s) := by
  have hnext : ∀ e, s.inputs.head? = some e → Input.renumbers s.cfg.base e = false :=
    fun e he => hno e (List.mem_of_head? he)
  rintro (next | next | next) <;> simpa [Input.renumbers, Command.toInstr] using hnext _ next

/-- A step that does not renumber moves SEQ on exactly when it accepts an ACK (R22, R120). -/
theorem seq_of_step_of_not_renumbers {s t : State} (h : step s = .next t)
    (hno : ∀ e ∈ s.inputs, Input.renumbers s.cfg.base e = false) :
    t.seq = s.seq + BitVec.ofNat 32 (if acceptsAck s then 1 else 0) := by
  rcases seqChangesOnlyByItsCommands s t h with ⟨hacc, hseq⟩ | ⟨hacc, hseq⟩ | ⟨-, next⟩
  · simp [hacc, hseq]
  · simp [hacc, hseq]
  · exact absurd next (not_next_of_not_renumbers hno)

/-- Settles O53, by induction on the steps: the schedule only gets shorter, so no step renumbers. -/
theorem sequenceLaw : Obligations.SequenceLaw := by
  intro k s t h hno
  induction k generalizing s with
  | zero =>
    injection h with h
    simp [h, ackCount]
  | succ k ih =>
    cases hs : step s with
    | next u =>
      have heffect := stepEffect_of_step hs
      rw [run_succ_of_next hs] at h
      have hrest : ∀ e ∈ u.inputs, Input.renumbers u.cfg.base e = false := by
        rw [heffect.inputs, heffect.cfg]
        exact fun e he => hno e (List.mem_of_mem_tail he)
      rw [ih u h hrest, seq_of_step_of_not_renumbers hs hno, ackCount_succ_of_next hs, BitVec.ofNat_add,
        BitVec.add_assoc]
    | fault r => rw [run, hs] at h; cases h
    | refused r => rw [run, hs] at h; cases h

end Sys2Proof.Machine
end

section
/-! PROOFS. NOP, INIT and CLREV (42_control.md R140 to R142). -/

namespace Sys2Proof

/-- A word of opcode 0 that is not 0 has a reserved bit set, which its opcode does not excuse (R73, R140). -/
theorem decodeCommand_of_nonzero_nop {w : Word} (hop : w.toNat % 16 = 0) (hw : w ≠ 0) :
    decodeCommand w = .error .illRsvd := by
  have hne : w.toNat ≠ 0 := fun h => hw (BitVec.eq_of_toNat_eq h)
  have hverdict := decodeCommand_verdict w
  split_ifs at hverdict with reserved bits operand
  · omega
  · exact hverdict
  · exact hverdict
  · omega

end Sys2Proof

namespace Sys2Proof.Machine

/-- Settles O13: NOP has no effect, and a nonzero word of its opcode does not decode. -/
theorem nopChangesNothing : Obligations.NopChangesNothing :=
  ⟨fun _ => rfl, fun _ hop hw s => exec_wrCmd_error (decodeCommand_of_nonzero_nop hop hw) s⟩

/-- With no flag set irq is low, whatever IEN enables, so STATUS is 0 (R30, R35). -/
theorem statusWord_eq_zero_of_statusLow {s : State} (h : statusLow s = 0) : statusWord s = 0 := by
  have hirq : irq s = false := by simp [irq, h]
  rw [statusWord, hirq, h]
  rfl

/-- The reset leaves every flag low, whatever IEN is (R141, R231). -/
theorem statusLow_resetBlock_ien (s : State) (v : Word) : statusLow { resetBlock s with ien := v } = 0 := by
  simp [statusLow, flagBit, rstreq, rsThresh]

/-- Settles O14: INIT is the reset of the block with IEN kept, and the reset leaves no flag that IEN could enable. -/
theorem initRestoresResetValues : Obligations.InitRestoresResetValues := by
  refine ⟨decodeCommand_encodeCommand .init, fun s => ?_⟩
  have hstatus : statusWord { resetBlock s with ien := s.ien } = 0 :=
    statusWord_eq_zero_of_statusLow (statusLow_resetBlock_ien s s.ien)
  exact ⟨{ resetBlock s with ien := s.ien }, rfl, rfl, rfl, rfl, rfl, rfl, rfl, rfl, rfl, rfl, rfl, rfl, rfl, rfl, rfl,
    rfl, hstatus, rfl⟩

/-- Settles O22: CLREV has no check, and its effect leaves STREAK, which RSTREQ reads, alone (R24). -/
theorem clrevClearsTheEvents : Obligations.ClrevClearsTheEvents :=
  ⟨decodeCommand_encodeCommand .clrev, fun s => ⟨clearEvents s, rfl, rfl, rstreq_congr (clearEvents_streak s)⟩⟩

end Sys2Proof.Machine
end

section
/-! PROOFS. The host's register accesses (43_bus_access.md R150 to R162): the row each offset decodes to, the word a read
returns, and the effect of the two writes. -/

namespace Sys2Proof.Machine

/-- A read of a register narrower than the bus returns its number, widened with zeros (R152 to R158). -/
theorem returnWord_setWidth {n : Nat} (v : BitVec n) (s : State) :
    returnWord (v.setWidth 32) s = .next { s with rdata := some (BitVec.ofNat 32 v.toNat) } := by
  rw [returnWord_next, BitVec.ofNat_toNat]

/-- Settles O23: each offset is that of its register, and each row returns the register, widened where it is narrow. -/
theorem readsReturnTheRegister : Obligations.ReadsReturnTheRegister := by
  refine ⟨fun base d => ?_, fun s => ⟨rfl, returnWord_setWidth _ s, returnWord_setWidth _ s, returnWord_setWidth _ s,
    returnWord_setWidth _ s, returnWord_setWidth _ s, rfl, returnWord_setWidth _ s, rfl⟩⟩
  have hread (r : Reg) :
      decodeAccess base { dir := .read, addr := base + r.offset, size := 4, data := d } = readInstr r :=
    decodeAccess_read rfl rfl rfl
  simp only [List.forall_mem_cons]
  exact ⟨hread .seq, hread .streak, hread .chksum, hread .cmdlen, hread .framelen, hread .txptr, hread .ien,
    hread .errcause, hread .errcmd, List.forall_mem_nil _⟩

/-- The fields of ID do not overlap while CMD_MAX fits its 16 bits, so the word is their sum (R33). -/
theorem idWord_eq_ofNat {c : Config} (fits : c.cmdMax < 2 ^ 16) :
    idWord c = BitVec.ofNat 32 (0x01030000 + c.cmdMax) := by
  apply BitVec.eq_of_toNat_eq
  have hcat : (idWord c).toNat = 0x0103 <<< 16 ||| c.cmdMax := by
    rw [idWord, BitVec.toNat_append, BitVec.toNat_ofNat, Nat.mod_eq_of_lt fits]
    rfl
  rw [hcat, ← Nat.shiftLeft_add_eq_or_of_lt fits, BitVec.toNat_ofNat]
  omega

/-- Settles O24: parameters in range keep CMD_MAX within its field. -/
theorem readIdReturnsTheParameters : Obligations.ReadIdReturnsTheParameters := by
  refine ⟨fun base d => decodeAccess_read (r := .id) rfl rfl rfl, fun s params => ?_⟩
  have fits : s.cfg.cmdMax < 2 ^ 16 := (Nat.le_add_right _ 17).trans_lt (Config.frameMax_lt_of_wf params)
  rw [← idWord_eq_ofNat fits]
  rfl

/-- The flags of STATUS in the order of their bits, bit 0 first (R30, R150). -/
def statusFlags (s : State) : List Bool :=
  [s.txbusy, s.fvalid, rstreq s, s.cmdtrunc, s.txdone, s.errIll, s.errState, s.seqwrap, irq s]

/-- Every bit of STATUS is the flag in its place, and 0 where there is none (R30). -/
theorem statusWord_getLsbD (s : State) (k : Nat) : (statusWord s).getLsbD k = (statusFlags s).getD k false := by
  rw [statusWord, BitVec.getLsbD_or, flagBit_getLsbD _ _ _ (by decide), statusLow_getLsbD]
  match k with
  | 0 | 1 | 2 | 3 | 4 | 5 | 6 | 7 | 8 => simp [statusFlags]
  | k + 9 => simp [statusFlags]

/-- Settles O25, from the flag in each place; past the nine flags there is none. -/
theorem readStatusReturnsTheFlags : Obligations.ReadStatusReturnsTheFlags := by
  refine ⟨fun base d => decodeAccess_read (r := .status) rfl rfl rfl, fun s => ?_⟩
  have hbit := statusWord_getLsbD s
  have hrstreq : (statusWord s).getLsbD 2 = true ↔ s.streak = 3 := by rw [hbit 2]; exact rstreq_iff s
  exact ⟨statusWord s, rfl, hbit 0, hbit 1, hrstreq, hbit 3, hbit 4, hbit 5, hbit 6, hbit 7, hbit 8,
    fun k hk => (hbit k).trans (List.getD_eq_default _ _ hk)⟩

/-- A write to IEN keeps the writable bits of its word (R32, R162). -/
theorem ienOperand_getLsbD (v : Word) (k : Nat) :
    (ienOperand v).getLsbD k = (v.getLsbD k && (k == 2 || k == 4 || k == 5 || k == 6 || k == 7)) := by
  rw [ienOperand, BitVec.getLsbD_and, ienMask_getLsbD]

/-- Settles O27, from the bits of what a write gives IEN. -/
theorem writeIenKeepsTheWritableBits : Obligations.WriteIenKeepsTheWritableBits :=
  ⟨fun _ _ => decodeAccess_write (r := .ien) rfl rfl rfl,
    fun v s => ⟨{ s with ien := ienOperand v }, rfl, rfl, ienOperand_getLsbD v⟩⟩

/-- Settles O28: the command or the refusal the word decodes to, and an answer either way. -/
theorem writeToCmdRunsTheCommand : Obligations.WriteToCmdRunsTheCommand :=
  ⟨decodeAccess_writeAccess_cmd, fun w s =>
    ⟨fun _ h => exec_wrCmd_ok h s, fun h => exec_wrCmd_error h s, fun h => exec_wrCmd_error h s,
      exec_wrCmd_answers w s⟩⟩

end Sys2Proof.Machine
end

section
/-! PROOFS. The transmit byte port (44_tx_port.md R170 to R176): a transfer and a whole drain, what commands can do to a
transmission in progress, and how every step treats the frame and the wire. -/

namespace Sys2Proof.Machine

/-! ## Transfers -/

/-- During a transmission tx_data is the byte at TXPTR (R170). -/
theorem txData_of_busy {s : State} (busy : s.txbusy = true) : txData s = Memory.read s.frame s.txptr.toNat :=
  if_pos busy

/-- Settles O35: the step is the transfer, and `txTransfer_eq` names the four fields it moves. -/
theorem transferSendsTheNextByte : Obligations.TransferSendsTheNextByte := by
  intro s rest hi busy
  have hdata := txData_of_busy busy
  refine ⟨busy, hdata, _, step_sinkReady_of_busy hi busy, ?_⟩
  rw [hdata, txTransfer_eq]
  refine ⟨rfl, rfl, ?_, rfl⟩
  by_cases last : s.txptr + 1 = s.framelen
  · rw [if_pos last]
    exact ⟨if_pos last, if_pos last⟩
  · rw [if_neg last]
    exact ⟨(if_neg last).trans busy, if_neg last⟩

/-- Settles O50: the invariant gives a pending byte, so the offers are the drain of `run_drain`. -/
theorem drainSendsThePendingBytes : Obligations.DrainSendsThePendingBytes := by
  intro s rest hinv busy hi
  have hlt : s.txptr.toNat < s.framelen.toNat := BitVec.lt_def.1 (hinv.busy_ptr busy)
  obtain ⟨n, hn⟩ := Nat.exists_eq_add_one.2 (Nat.sub_pos_of_lt hlt)
  rw [hn] at hi ⊢
  exact ⟨_, run_drain busy (by omega) hi, rfl, rfl, rfl, rfl, rfl, rfl⟩

/-! ## Commands during a transmission -/

/-- A command whose first check is BUSY is refused with it during a transmission (R176, R202). -/
theorem guarded_of_busy {s : State} (busy : s.txbusy = true) (l : List (Bool × Cause)) (w : Word) (e : State) :
    guarded ((s.txbusy, .busy) :: l) w e s = .next (refuse .busy w s) :=
  guarded_of_firstCause (by rw [busy, firstCause_true])

/-- From `s` to `t` no transmission starts, ends or moves on, and the bytes still to be sent are the same (R175, R176). -/
def KeepsTransmission (s t : State) : Prop :=
  t.txbusy = s.txbusy ∧ t.txptr = s.txptr ∧ pendingBytes t = pendingBytes s

/-- During a transmission no command but INIT disturbs it: the five that could ask for TXBUSY = 0 (R176). -/
theorem keepsTransmission_of_command {s t : State} {c : Command} (busy : s.txbusy = true)
    (h : exec c.toInstr s = .next t) (hinit : c ≠ .init) : KeepsTransmission s t := by
  have notQuiet : s.txbusy ≠ false := by simp [busy]
  rcases command_next_cases h with ⟨k, w, rfl⟩ | heffect
  · exact ⟨rfl, rfl, rfl⟩
  cases c with
  | init => exact absurd rfl hinit
  | encode | ack | resend | erst | raw => exact absurd heffect.1 notQuiet
  | push b => rcases heffect with ⟨-, rfl⟩ | ⟨-, rfl⟩ <;> exact ⟨rfl, rfl, rfl⟩
  | nop | clr | clrev => cases heffect; exact ⟨rfl, rfl, rfl⟩

/-- A word written to CMD is a command, or is refused and disturbs no transmission either (R160, R176). -/
theorem keepsTransmission_of_wrCmd {s t : State} {w : Word} (busy : s.txbusy = true)
    (h : exec (.wrCmd w) s = .next t) (hinit : decodeCommand w ≠ .ok .init) : KeepsTransmission s t := by
  cases hdec : decodeCommand w with
  | error e =>
    rw [exec_wrCmd_error hdec] at h
    cases h
    exact ⟨rfl, rfl, rfl⟩
  | ok c =>
    rw [exec_wrCmd_ok hdec] at h
    exact keepsTransmission_of_command busy h fun hc => hinit (hc ▸ hdec)

/-- A bus access that is no write of INIT's word disturbs no transmission (R55, R162, R176). -/
theorem keepsTransmission_of_busRow {s t : State} {i : Instr} (busy : s.txbusy = true) (hbus : i.command? = none)
    (h : exec i s = .next t) (hinit : ∀ w, i = .wrCmd w → decodeCommand w ≠ .ok .init) : KeepsTransmission s t := by
  rcases busRow_of_command?_eq_none hbus with ⟨r, hread⟩ | ⟨v, r, hwrite⟩
  · obtain ⟨v, hv⟩ := exec_readInstr hread s
    cases hv.symm.trans h
    exact ⟨rfl, rfl, rfl⟩
  · rcases writeInstr_ok_cases hwrite with ⟨-, rfl⟩ | ⟨-, rfl⟩
    · exact keepsTransmission_of_wrCmd busy h (hinit v rfl)
    · cases h
      exact ⟨rfl, rfl, rfl⟩

/-- Settles O30: BUSY is the first check of the five commands, and no instruction but INIT disturbs a transmission. -/
theorem commandsDuringATransmission : Obligations.CommandsDuringATransmission := by
  refine fun s busy => ⟨fun c hc => ?_, fun i t h hword hinit => ?_⟩
  · rcases hc with rfl | rfl | rfl | rfl | rfl <;> exact guarded_of_busy busy ..
  · have hkeeps : KeepsTransmission s t := by
      cases hi : i.command? with
      | some c =>
        obtain rfl := toInstr_of_command? hi
        exact keepsTransmission_of_command busy h fun hc => hinit (hc ▸ rfl)
      | none => exact keepsTransmission_of_busRow busy hi h hword
    obtain ⟨hbusy, hptr, hpending⟩ := hkeeps
    exact ⟨hbusy.trans busy, hptr, hpending⟩

/-! ## Laws of every step -/

/-- Settles O45, by the effects of a step: the two that load FRAME need TXBUSY = 0, and INIT and a reset end the
transmission. -/
theorem frameIsStableWhileBusy : Obligations.FrameIsStableWhileBusy := by
  intro s t h busy
  have notQuiet : s.txbusy ≠ false := by simp [busy]
  cases stepEffect_of_step h with
  | encode _ _ quiet => exact absurd quiet notQuiet
  | raw _ _ quiet => exact absurd quiet notQuiet
  | init next => exact .inr ⟨rfl, .inl next⟩
  | reset next => exact .inr ⟨rfl, .inr next⟩
  | _ => exact .inl ⟨rfl, fun _ => rfl⟩

/-- Settles O46, by the effects of a step: only the two transfers emit a byte. -/
theorem wireGrowsOnlyByTransfers : Obligations.WireGrowsOnlyByTransfers := by
  intro s t h
  cases stepEffect_of_step h with
  | transferLast next busy => exact .inr ⟨next, busy, rfl⟩
  | transferMore next busy => exact .inr ⟨next, busy, rfl⟩
  | _ => exact .inl rfl

end Sys2Proof.Machine
end

section
/-! PROOFS. Errors and events (60_exceptions.md R200, R201, R208): what a refusal records, and that no step sets two event
bits. -/

namespace Sys2Proof.Machine

/-! ## What a refusal records -/

/-- The causes that set ERR_ILL are the two of decode (R200, R201). -/
theorem Cause.isIllegal_iff (k : Cause) : k.isIllegal = true ↔ k = .illOp ∨ k = .illRsvd := by
  cases k <;> decide

/-- Settles O29, by whether the cause is one of decode, which picks the STATUS bit. -/
theorem refusalRecordsTheFirstCause : Obligations.RefusalRecordsTheFirstCause := by
  refine ⟨fun k w s => ?_, rfl⟩
  simp only [← k.isIllegal_iff, refuse_errIll, refuse_errState, refuse_errcause, refuse_errcmd]
  refine ⟨?_, ?_, fun clear => ⟨if_pos clear, if_pos clear⟩, fun recorded => ⟨if_neg recorded, if_neg recorded⟩, rfl⟩
  · cases k.isIllegal <;> simp
  · cases k.isIllegal <;> simp

/-! ## Events -/

/-- The five events of R208, which are the sources of irq (R207). -/
inductive Event
  | errIll
  | errState
  | seqwrap
  | rstreq
  | txdone
deriving DecidableEq

/-- The STATUS bit of an event (R30). -/
def Event.bit : Event → State → Bool
  | .errIll, s => s.errIll
  | .errState, s => s.errState
  | .seqwrap, s => s.seqwrap
  | .rstreq, s => Machine.rstreq s
  | .txdone, s => s.txdone

/-- Every event, once. -/
def Event.all : List Event := [.errIll, .errState, .seqwrap, .rstreq, .txdone]

theorem Event.nodup_all : Event.all.Nodup := by decide

/-- From `s` to `t` no event bit but that of `e` goes from 0 to 1. -/
def SetsAtMost (e : Event) (s t : State) : Prop := ∀ e' ≠ e, e'.bit t = true → e'.bit s = true

/-- The refusal's event: ERR_ILL for a cause of decode, else ERR_STATE (R200). -/
def Cause.event (k : Cause) : Event := if k.isIllegal then .errIll else .errState

theorem setsAtMost_refuse (k : Cause) (w : Word) (s : State) : SetsAtMost k.event s (refuse k w s) := by
  intro e hne hbit
  cases e with
  | errIll =>
    have legal : k.isIllegal = false := by simpa [Cause.event] using hne.symm
    simpa [Event.bit, legal] using hbit
  | errState =>
    have illegal : k.isIllegal = true := by simpa [Cause.event] using hne.symm
    simpa [Event.bit, illegal] using hbit
  | _ => exact hbit

/-- Consuming an input sets and clears no event bit (R60). -/
theorem Event.bit_advance (e : Event) (s : State) : e.bit (advance s) = e.bit s := by cases e <;> rfl

/-- Every effect of a step sets the bit of at most one event: a refusal that of its cause, ACK SEQWRAP, RESEND RSTREQ and a
transfer TXDONE; the others set none (R208). -/
theorem StepEffect.setsAtMost_one {s t : State} (h : StepEffect s t) : ∃ e, SetsAtMost e s t := by
  have setsNone (hnone : ∀ e : Event, e.bit t = true → e.bit s = true) : ∃ e, SetsAtMost e s t :=
    ⟨.errIll, fun e _ => hnone e⟩
  cases h with
  | refused k w =>
    exact ⟨k.event, fun e hne hbit => (e.bit_advance s).symm.trans (setsAtMost_refuse k w (advance s) e hne hbit)⟩
  | ack => exact ⟨.seqwrap, fun
    | .seqwrap, hne => absurd rfl hne
    | .rstreq, _ => nofun
    | .errIll, _ | .errState, _ | .txdone, _ => id⟩
  | resendEscalates => exact ⟨.rstreq, fun
    | .rstreq, hne => absurd rfl hne
    | .errIll, _ | .errState, _ | .seqwrap, _ | .txdone, _ => id⟩
  | resendReplays => exact ⟨.rstreq, fun
    | .rstreq, hne => absurd rfl hne
    | .txdone, _ => nofun
    | .errIll, _ | .errState, _ | .seqwrap, _ => id⟩
  | transferLast => exact ⟨.txdone, fun
    | .txdone, hne => absurd rfl hne
    | .errIll, _ | .errState, _ | .seqwrap, _ | .rstreq, _ => id⟩
  | encode | raw => exact setsNone fun
    | .txdone => nofun
    | .errIll | .errState | .seqwrap | .rstreq => id
  | erst => exact setsNone fun
    | .rstreq => nofun
    | .errIll | .errState | .seqwrap | .txdone => id
  | clrev => exact setsNone fun
    | .rstreq => id
    | .errIll | .errState | .seqwrap | .txdone => nofun
  | init | reset => exact setsNone fun
    | .errIll | .errState | .seqwrap | .rstreq | .txdone => nofun
  | _ => exact setsNone fun
    | .errIll | .errState | .seqwrap | .rstreq | .txdone => id

/-- Where at most the bit of one event is set, at most one of the distinct events counts as risen. -/
theorem countP_rises_le_one {e : Event} {s t : State} (h : SetsAtMost e s t) :
    (Event.all.countP fun e' => !e'.bit s && e'.bit t) ≤ 1 :=
  calc (Event.all.countP fun e' => !e'.bit s && e'.bit t)
    _ ≤ Event.all.count e := by
      refine List.countP_mono_left fun e' _ rises => ?_
      obtain ⟨clear, set⟩ : e'.bit s = false ∧ e'.bit t = true := by simpa using rises
      by_contra hne
      have stays := h e' (by simpa using hne) set
      exact absurd (clear.symm.trans stays) Bool.false_ne_true
    _ ≤ 1 := List.nodup_iff_count_le_one.1 Event.nodup_all e

/-- Settles O44: the five pairs are those of the events, and every effect of a step sets the bit of at most one. -/
theorem atMostOneEventBitRises : Obligations.AtMostOneEventBitRises := by
  intro s t h
  obtain ⟨e, he⟩ := (stepEffect_of_step h).setsAtMost_one
  exact countP_rises_le_one he

end Sys2Proof.Machine
end

section
/-! PROOFS. Reset and hazards (70_reset_and_hazards.md R230 to R233): the events that stop the machine, the assertion of
rst, the state after it, and INIT beside it. -/

namespace Sys2Proof.Machine

/-! ## Steps that stop the machine -/

/-- While rst is held the host has no step, whatever its access is (R230, I8). -/
theorem step_host_of_rst {s : State} {a : Access} {rest : List Input} (hi : s.inputs = .host a :: rest)
    (held : s.rst = true) : step s = .fault .accessDuringReset := by
  rw [step_cons hi, agentStep, hostAccess, advance_rst, if_pos held]

/-- A second host has no step (R213). -/
theorem step_otherHost {s : State} {a : Access} {rest : List Input} (hi : s.inputs = .otherHost a :: rest) :
    step s = .refused .secondHost := by
  rw [step_cons hi, agentStep]

/-- Settles O33, from the step at each of the two accesses. -/
theorem accessesWithoutAStepStop : Obligations.AccessesWithoutAStepStop :=
  fun _ _ _ => ⟨step_host_of_rst, step_otherHost⟩

/-! ## The reset values -/

theorem step_assertReset {s : State} {rest : List Input} (hi : s.inputs = .rst true :: rest) :
    step s = .next (assertReset (advance s)) := by
  rw [step_cons hi, agentStep]

/-- An assertion of rst leaves every flag low, and so STATUS at 0: no flag reads IEN or the level of rst (R230, R231). -/
theorem statusWord_assertReset (s : State) : statusWord (assertReset s) = 0 := by
  have hlow : statusLow (assertReset s) = 0 := statusLow_resetBlock_ien s 0
  exact statusWord_eq_zero_of_statusLow hlow

/-- Settles O36: the step is the assertion of rst, which sets each register and flag to its reset value. -/
theorem resetAssertionForcesResetValues : Obligations.ResetAssertionForcesResetValues := by
  intro s rest hi
  have hstatus : statusWord (assertReset (advance s)) = 0 := statusWord_assertReset (advance s)
  exact ⟨assertReset (advance s), step_assertReset hi, rfl, rfl, rfl, rfl, rfl, rfl, rfl, rfl, rfl, rfl, rfl, rfl, rfl,
    rfl, rfl, rfl, hstatus, rfl, rfl, rfl⟩

/-- With no interrupt enabled irq is low (R35). -/
theorem irq_eq_false_of_ien_zero {s : State} (h : s.ien = 0) : irq s = false := by
  simp [irq, h]

/-- STATUS is 0 after reset: `State.reset` is its own reset of the block, which leaves no flag set (R231). -/
theorem statusWord_reset : statusWord State.reset = 0 := by
  have hlow : statusLow State.reset = 0 := statusLow_resetBlock_ien State.reset 0
  exact statusWord_eq_zero_of_statusLow hlow

/-- ID at the default CMD_MAX, 128 (R6, R33). -/
theorem idWord_default : idWord Config.default = 0x01030080 :=
  idWord_eq_ofNat (c := Config.default) (by decide)

/-- Settles O37: the registers and flags are those of `State.reset`; STATUS and irq follow from them, and ID from the
default CMD_MAX. -/
theorem resetStateValues : Obligations.ResetStateValues := by
  have hirq : irq State.reset = false := irq_eq_false_of_ien_zero rfl
  exact ⟨rfl, rfl, rfl, rfl, rfl, rfl, rfl, rfl, rfl, rfl, rfl, rfl, rfl, rfl, statusWord_reset, rfl, rfl, rfl, hirq, rfl,
    rfl, idWord_default⟩

/-! ## INIT and the reset input -/

/-- But for the level of rst, an assertion is the reset of the block (R230). -/
theorem assertReset_with_level (s : State) : { assertReset s with rst := s.rst } = resetBlock s := rfl

/-- Settles O38: both are the reset of the block, which INIT does with IEN kept and an assertion with rst raised. -/
theorem initEqualsResetButIen : Obligations.InitEqualsResetButIen := fun s =>
  calc exec .init s
    _ = .next { resetBlock s with ien := s.ien } := rfl
    _ = .next { assertReset s with ien := s.ien, rst := s.rst } := by rw [← assertReset_with_level s]

end Sys2Proof.Machine
end

section
/-! PROOFS. The events that do not reach the block: an empty schedule, a host access outside the window, and an offer of
the sink while nothing is sent (20_memory.md R51, 44_tx_port.md R170, R171, 70_reset_and_hazards.md R232). -/

namespace Sys2Proof.Machine

/-- With no event there is none to consume: only the step is counted (R232). -/
theorem advance_of_nil {s : State} (h : s.inputs = []) : advance s = { s with tick := s.tick + 1 } :=
  calc advance s
    _ = { s with inputs := s.inputs, tick := s.tick + 1 } := by rw [advance, h, List.tail_nil]
    _ = { s with tick := s.tick + 1 } := rfl

/-- The step at a host access outside the window, with rst low: the access never reaches the block (R51). -/
theorem step_host_of_outside {s : State} {a : Access} {rest : List Input} (hi : s.inputs = .host a :: rest)
    (hr : s.rst = false) (hdec : decodeAccess s.cfg.base a = .error .outside) : step s = .next (advance s) := by
  rw [step_cons hi, agentStep, hostAccess, advance_rst, hr, advance_cfg, hdec]
  rfl

/-- With nothing to send an offer of the sink transfers nothing (R170, R171). -/
theorem sinkReady_of_idle {s : State} (idle : s.txbusy = false) : sinkReady s = s := by
  have invalid : ¬ txValid s = true := by rw [txValid, idle]; exact Bool.false_ne_true
  exact if_neg invalid

/-- The step at an offer of the sink with nothing to send: only the event is consumed (R171). -/
theorem step_sinkReady_of_idle {s : State} {rest : List Input} (hi : s.inputs = .sinkReady :: rest)
    (idle : s.txbusy = false) : step s = .next (advance s) := by
  rw [step_cons hi, agentStep, sinkReady_of_idle ((advance_txbusy s).trans idle)]

/-- Settles O34: each of the three steps only moves the schedule on, and `advance` touches no more than it and the count. -/
theorem eventsThatChangeNothing : Obligations.EventsThatChangeNothing := by
  intro s
  refine ⟨fun hi => ?noEvent, fun a rest hi hr hwin => ?outside, fun rest hi idle => ?idleOffer⟩
  case noEvent => rw [step_nil hi, advance_of_nil hi]
  case outside => rw [step_host_of_outside hi hr (decodeAccess_outside hwin), advance_of_cons hi]
  case idleOffer => rw [step_sinkReady_of_idle hi idle, advance_of_cons hi]

end Sys2Proof.Machine
end
